-- ==== Sys2Proof/Word.lean ====
section
/-! DEFINITION. The containers of the spec: `uN` and `iN` patterns (00_scope.md R11, 10_state.md). A pattern has no sign of
its own; the rule that uses it reads it with `toNat` (`zext`) or `toInt` (`sext`), R13. -/

namespace Sys2Proof

/-- A 32-bit register pattern (20_memory.md R62). -/
abbrev Word := BitVec 32

/-- A 16-bit pattern: an encoder reading, a ring `dc` or `dms` (10_state.md R32, R34). -/
abbrev Half := BitVec 16

/-- A word address of the register space (20_memory.md R60). -/
abbrev Addr := BitVec 8

/-- A command word (30_encoding.md R80). -/
abbrev CmdWord := BitVec 64

end Sys2Proof
end

