-- ==== Sys2Proof/Machine/FixedPoint.lean ====
section
/-! DEFINITION. The fixed-point helpers and the integer arithmetic laws (40_fixed_point_helpers.md), on the exact integers
(00_scope.md R12), and the conversions of R13. The helpers read and write no state. -/

namespace Sys2Proof.Machine

/-- `CTRL_MIN = −2^30` (00_scope.md R7). -/
def ctrlMin : Int := -1073741824

/-- `CTRL_MAX = 2^30 − 1` (00_scope.md R7). -/
def ctrlMax : Int := 1073741823

/-- `Q15_ONE`, the factor of the error normalisation (00_scope.md R7). -/
def q15One : Int := 32768

/-- `clamp(x, lo, hi)`, for `lo ≤ hi` (40_fixed_point_helpers.md R112). -/
def clamp (x lo hi : Int) : Int := if x < lo then lo else if hi < x then hi else x

/-- `sat_ctrl`: clamp to the control range (40_fixed_point_helpers.md R110). -/
def satCtrl (x : Int) : Int := clamp x ctrlMin ctrlMax

/-- `clamp_q15` (40_fixed_point_helpers.md R111). -/
def clampQ15 (x : Int) : Int := clamp x (-32768) 32767

/-- `abs`, exact (40_fixed_point_helpers.md R113). -/
def absZ (x : Int) : Int := if x < 0 then -x else x

/-- `a div b`, rounded toward zero (00_scope.md R13, 40_fixed_point_helpers.md R117). The spec never divides by 0 (R118; log
entries 5 and 7). -/
def divZ (a b : Int) : Int := Int.tdiv a b

/-- `v asr k = floor(v / 2^k)` (00_scope.md R13, 40_fixed_point_helpers.md R119): Lean's `/` on `Int` rounds down for a
positive divisor. -/
def asr (v : Int) (k : Nat) : Int := v / 2 ^ k

/-- The 32-bit pattern of an exact value in range of its container (`bits32`, 00_scope.md R13). -/
def bits32 (v : Int) : Word := BitVec.ofInt 32 v

/-- Time difference `wrap_u32(now − then)` (40_fixed_point_helpers.md R114). -/
def elapsedMs (now since : Word) : Word := now - since

/-- Count difference `wrap_s16(cnt − prev)`, as a pattern (40_fixed_point_helpers.md R114, 41_velocity_estimator.md R133). -/
def countDiff (cnt prev : Half) : Half := cnt - prev

end Sys2Proof.Machine
end

