-- ==== Sys2Proof/Syntax.lean ====
section
/-! DEFINITION. The eight commands (30_encoding.md R83), one constructor per row of spec/opcode_table.json, and the four raw
fields of a command word (R81). -/

namespace Sys2Proof

/-- A command. Only `RD` and `WR` carry operands: the others read and write fixed operand registers (10_state.md R20). -/
inductive Instr where
  /-- `RD addr`: read one register (45_register_access.md R231). -/
  | rd (addr : Addr)
  /-- `WR addr, data`: write one register (45_register_access.md R234). -/
  | wr (addr : Addr) (data : Word)
  /-- `GET_MS`: sample the millisecond tick into `NOW` (44_loop_driver.md R210). -/
  | getMs
  /-- `VEL_STEP`: one invocation of the velocity estimator (41_velocity_estimator.md R130). -/
  | velStep
  /-- `PI_STEP`: one invocation of the PI controller (43_pi_controller.md R180). -/
  | piStep
  /-- `ACTUATE`: map the control value to the compare registers (42_actuator_mapper.md R160). -/
  | actuate
  /-- `PI_RESET`: return the controller to `Uninitialized` (43_pi_controller.md R196). -/
  | piReset
  /-- `VEL_RESET`: return the estimator to its reset state (41_velocity_estimator.md R141). -/
  | velReset
deriving DecidableEq, Repr

/-- The fields of a command word, `op ‖ addr ‖ rsv ‖ data` (30_encoding.md R81). -/
structure Fields where
  /-- Bits 63:56. -/
  op : BitVec 8
  /-- Bits 55:48. -/
  addr : Addr
  /-- Bits 47:32. -/
  rsv : BitVec 16
  /-- Bits 31:0. -/
  data : Word
deriving DecidableEq, Repr

/-- The three formats, "told apart by `op` alone" (30_encoding.md R82). -/
inductive Format where
  /-- No operand. -/
  | n
  /-- Register read: `addr`. -/
  | r
  /-- Register write: `addr` and `data`. -/
  | w
deriving DecidableEq, Repr

end Sys2Proof
end

