-- ==== Sys2Proof/WellFormed.lean ====
section
/-! DEFINITION. Which field values a legal command may have (30_encoding.md R82, R86, 92_eei_decisions.md D38), and the fields a
command has. The operands of `Instr` are bit vectors of exactly the widths of their fields, so every command is well-formed;
the checks that can fail are those on the raw fields of a word. -/

namespace Sys2Proof

/-- The opcode map (30_encoding.md R83): the format of an `op` value, none for the 248 values that are no command. -/
def formatOf (op : BitVec 8) : Option Format :=
  match op.toNat with
  | 0x01 => some .r
  | 0x02 => some .w
  | 0x10 => some .n
  | 0x11 => some .n
  | 0x12 => some .n
  | 0x13 => some .n
  | 0x20 => some .n
  | 0x21 => some .n
  | _ => none

/-- `rsv` must be 0 in every command. -/
def Fields.rsvZero (f : Fields) : Bool := f.rsv == 0

/-- `op` is one of the eight. -/
def Fields.opKnown (f : Fields) : Bool := (formatOf f.op).isSome

/-- `addr` must be 0 where the format does not use it. -/
def Fields.addrAllowed (f : Fields) : Bool := formatOf f.op != some .n || f.addr == 0

/-- `data` must be 0 where the format does not use it. -/
def Fields.dataAllowed (f : Fields) : Bool := formatOf f.op == some .w || f.data == 0

/-- All four checks of R82 and R83. -/
def Fields.wellFormed (f : Fields) : Bool := f.rsvZero && f.opKnown && f.addrAllowed && f.dataAllowed

/-- The opcode of a command (30_encoding.md R83). -/
def Instr.op : Instr → BitVec 8
  | .rd _ => 0x01
  | .wr _ _ => 0x02
  | .getMs => 0x10
  | .velStep => 0x11
  | .piStep => 0x12
  | .actuate => 0x13
  | .piReset => 0x20
  | .velReset => 0x21

/-- The fields of a command's word (30_encoding.md R82). -/
def Instr.fields : Instr → Fields
  | .rd addr => ⟨(Instr.rd addr).op, addr, 0, 0⟩
  | .wr addr data => ⟨(Instr.wr addr data).op, addr, 0, data⟩
  | .getMs => ⟨Instr.getMs.op, 0, 0, 0⟩
  | .velStep => ⟨Instr.velStep.op, 0, 0, 0⟩
  | .piStep => ⟨Instr.piStep.op, 0, 0, 0⟩
  | .actuate => ⟨Instr.actuate.op, 0, 0, 0⟩
  | .piReset => ⟨Instr.piReset.op, 0, 0, 0⟩
  | .velReset => ⟨Instr.velReset.op, 0, 0, 0⟩

/-- A command is well-formed when the fields its word has pass the checks of R82. -/
def Instr.wellFormed (i : Instr) : Bool := i.fields.wellFormed

end Sys2Proof
end

