-- ==== Sys2Proof/Decode.lean ====
section
/-! DEFINITION. The decoder, total on every 64-bit word (30_encoding.md R85), and the encoder (R81 to R84). A word is presented
whole (R80) and byte order is not observable (20_memory.md R63), so both speak of the 64-bit word, not of bytes. -/

namespace Sys2Proof

/-- Why a word is no command (30_encoding.md R86). All four are answered alike, with `ST_OP`. -/
inductive DecodeError where
  /-- `rsv ≠ 0`. -/
  | reservedNotZero
  /-- `op` is none of the eight. -/
  | unknownOp
  /-- An `N`-format command with `addr ≠ 0`. -/
  | addrNotZero
  /-- An `N`-format command or an `RD` with `data ≠ 0`. -/
  | dataNotZero
deriving DecidableEq, Repr

/-- The fields of a word by their bit places (30_encoding.md R81). -/
def fieldsOf (w : CmdWord) : Fields where
  op := w.extractLsb' 56 8
  addr := w.extractLsb' 48 8
  rsv := w.extractLsb' 32 16
  data := w.extractLsb' 0 32

/-- The `N`-format check of 30_encoding.md R85. -/
def decodeN (f : Fields) (i : Instr) : Except DecodeError Instr :=
  if f.addr ≠ 0 then .error .addrNotZero else if f.data ≠ 0 then .error .dataNotZero else .ok i

/-- Decoding of the fields of a word (30_encoding.md R85, the algorithm). -/
def decodeFields (f : Fields) : Except DecodeError Instr :=
  if f.rsv ≠ 0 then .error .reservedNotZero
  else
    match f.op.toNat with
    | 0x01 => if f.data ≠ 0 then .error .dataNotZero else .ok (.rd f.addr)
    | 0x02 => .ok (.wr f.addr f.data)
    | 0x10 => decodeN f .getMs
    | 0x11 => decodeN f .velStep
    | 0x12 => decodeN f .piStep
    | 0x13 => decodeN f .actuate
    | 0x20 => decodeN f .piReset
    | 0x21 => decodeN f .velReset
    | _ => .error .unknownOp

/-- The decoder: "every 64-bit word either is exactly one command of rule R83 or is illegal" (30_encoding.md R85). Whether
`addr` names a register is no question of decoding. -/
def decode (w : CmdWord) : Except DecodeError Instr := decodeFields (fieldsOf w)

/-- A word from its fields, `op ‖ addr ‖ rsv ‖ data` (30_encoding.md R81). -/
def wordOf (op : BitVec 8) (addr : Addr) (rsv : BitVec 16) (data : Word) : CmdWord :=
  op ++ addr ++ rsv ++ data

/-- The encoder: `match` of the row of 30_encoding.md R83 with the operands in their fields (R82, R84). -/
def encode : Instr → CmdWord
  | .rd addr => wordOf 0x01 addr 0 0
  | .wr addr data => wordOf 0x02 addr 0 data
  | .getMs => wordOf 0x10 0 0 0
  | .velStep => wordOf 0x11 0 0 0
  | .piStep => wordOf 0x12 0 0 0
  | .actuate => wordOf 0x13 0 0 0
  | .piReset => wordOf 0x20 0 0 0
  | .velReset => wordOf 0x21 0 0 0

/-- The `match` and `mask` columns of 30_encoding.md R83. -/
def opcodeRow : Instr → CmdWord × CmdWord
  | .rd _ => (0x0100000000000000, 0xFF00FFFFFFFFFFFF)
  | .wr _ _ => (0x0200000000000000, 0xFF00FFFF00000000)
  | .getMs => (0x1000000000000000, 0xFFFFFFFFFFFFFFFF)
  | .velStep => (0x1100000000000000, 0xFFFFFFFFFFFFFFFF)
  | .piStep => (0x1200000000000000, 0xFFFFFFFFFFFFFFFF)
  | .actuate => (0x1300000000000000, 0xFFFFFFFFFFFFFFFF)
  | .piReset => (0x2000000000000000, 0xFFFFFFFFFFFFFFFF)
  | .velReset => (0x2100000000000000, 0xFFFFFFFFFFFFFFFF)

/-- The command word the opcode table's bits stand for: the low `nbits` bits of `w`, every higher bit 0. -/
def tableWord (nbits w : Nat) : CmdWord := BitVec.ofNat 64 (w % 2 ^ nbits)

/-- What the decoder reads from an instruction of the opcode table given as bits (every row has 64). Bits beyond the one
64-bit word of a command are refused: no command is longer (30_encoding.md R80). -/
def decodeTableWord (nbits w : Nat) : Option Instr :=
  if w % 2 ^ nbits < 2 ^ 64 then
    match decode (tableWord nbits w) with
    | .ok i => some i
    | .error _ => none
  else none

end Sys2Proof
end

