-- ==== Sys2Proof/Config.lean ====
section
/-! DEFINITION. The constants the source fixes (00_scope.md R7) and the parameters the spec fixes (R8). "No parameter is left
open for the model to take as an argument" (R9), and no rule has an undefined result (93_implementation_defined.md), so there
is no opaque constant here. -/

namespace Sys2Proof.Config

/-- `BUF_N`: ring slots of the velocity estimator (R7). -/
abbrev bufN : Nat := 32

/-- `PERIOD_CTRL`, milliseconds (R7): a cadence of the host. -/
def periodCtrl : Nat := 10

/-- `PERIOD_REF`, milliseconds (R7): a cadence of the host. -/
def periodRef : Nat := 4000

/-- `REF_DEFAULT`, RPM (R7). -/
def refDefault : Int := 2000

/-- Number of addressable registers (R8). -/
def addressableRegs : Nat := 20

/-- Reset value of `RPM_SCALE` (10_state.md R44, R59). -/
def rpmScaleReset : Word := 4000

end Sys2Proof.Config
end

