-- ==== Sys2Proof/Machine/State.lean ====
section
/-! DEFINITION. The state the spec gives the machine (10_state.md), as plain data, and its reset values (R59). Grouped as the
spec groups it: operand registers, controller state, estimator state, configuration, outputs, ports. -/

namespace Sys2Proof.Machine

/-- No fault exists: "the core has no fault and no state from which it cannot proceed" (93_implementation_defined.md). Nobody
raises one. A command error (60_exceptions.md R250) is a response, not a stop. -/
inductive Fault where
deriving DecidableEq, Repr

/-- Reasons for having no meaning for a command. -/
inductive Refusal where
  /-- Raised by an arm of `exec` whose command has no meaning yet: none has. Safe. -/
  | notModelled (mnemonic : String)
deriving DecidableEq, Repr

/-- Who presents a command: the `cmd_src` tag (30_encoding.md R93, 60_exceptions.md R258). -/
inductive Requester where
  /-- `cmd_src = 0`. -/
  | host
  /-- `cmd_src = 1`. -/
  | debug
deriving DecidableEq, Repr

/-- Status codes (30_encoding.md R91). -/
inductive Status where
  /-- `ST_OK`: the operation was carried out. -/
  | ok
  /-- `ST_OP`: the word is not a command. -/
  | op
  /-- `ST_ADDR`: unmapped address. -/
  | addr
  /-- `ST_ACCESS`: direction or requester not allowed. -/
  | access
  /-- `ST_VALUE`: value outside the register's legal range. -/
  | value
deriving DecidableEq, Repr

/-- A response, `status ‖ data` (30_encoding.md R90). -/
structure Response where
  status : Status
  data : Word
deriving DecidableEq, Repr

/-- The four operand registers (10_state.md R20). -/
structure OperandRegs where
  /-- 0x00, read as `u32` (R21). -/
  now : Word
  /-- 0x01, read as `i32` (R22). -/
  ref : Word
  /-- 0x02, read as `i32` (R23). -/
  meas : Word
  /-- 0x03, read as `i32`, Q30 (R24). -/
  u : Word
deriving DecidableEq, Repr

/-- PI controller private state (10_state.md R27 to R30). -/
structure PiState where
  /-- `i32`, Q30 (R27). -/
  integrator : Word
  /-- `u32` (R28). -/
  lastMs : Word
  /-- true is `Uninitialized`, false is `Running` (R29, 43_pi_controller.md R194). -/
  firstCall : Bool
  /-- `i32`, Q30: the value the last `PI_STEP` returned (R30). -/
  uPrev : Word
deriving DecidableEq, Repr

/-- A slot of the ring, the pair `(dc: i16, dms: u16)` (10_state.md R34). -/
structure Slot where
  /-- Count difference, `i16`. -/
  dc : Half
  /-- Time difference in milliseconds, `u16`, capped at 65535. -/
  dms : Half
deriving DecidableEq, Repr

/-- Velocity estimator private state (10_state.md R32 to R39). -/
structure VelState where
  /-- `i16` (R32). -/
  prevCount : Half
  /-- `u32`; 0 is the uninitialised sentinel (R33). -/
  prevMs : Word
  /-- `ring[0..31]` (R34). -/
  ring : Vector Slot Config.bufN
  /-- `i32` (R35). -/
  sumDeltaCount : Word
  /-- `u32` (R36). -/
  sumDeltaMs : Word
  /-- `u5`, next write position (R37). -/
  idx : BitVec 5
  /-- `u6`, sample count (R37). -/
  filled : BitVec 6
  /-- `i32`, last smoothed RPM (R39). -/
  velFilt : Word
deriving DecidableEq, Repr

/-- The eleven configuration registers (10_state.md R40 to R51). -/
structure Tunables where
  /-- 0x10, `i32`, Q15 (R41). -/
  kpQ15 : Word
  /-- 0x11, `i32`, Q15 (R42). -/
  kiQ15 : Word
  /-- 0x12, `i32` (R43). -/
  uPerRpm : Word
  /-- 0x13, `i32` (R44). -/
  rpmScale : Word
  /-- 0x14, `i32` (R45). -/
  errDeadbandRpm : Word
  /-- 0x15, `i32` (R46). -/
  intWindowPct : Word
  /-- 0x16, `i32` (R47). -/
  absIntWindowRpm : Word
  /-- 0x17, `i32`, Q30 (R48). -/
  iClampQ30 : Word
  /-- 0x18, `u32` (R49). -/
  velWindowMs : Word
  /-- 0x19, `i32` (R50). -/
  velIirShift : Word
  /-- 0x1A, `i32` (R51). -/
  encoderPpr : Word
deriving DecidableEq, Repr

/-- The output registers, also driven on the output ports (10_state.md R55, R56). -/
structure Outputs where
  /-- 0x20, `u32` (R55). -/
  ccrA : Word
  /-- 0x21, `u32` (R55). -/
  ccrB : Word
  /-- 0x22, two enable lines (R56). -/
  en : BitVec 2
deriving DecidableEq, Repr

/-- The levels of the three sampled input ports (10_state.md R52 to R54). -/
structure InPorts where
  /-- `tick_ms`, `u32` (R52). -/
  tickMs : Word
  /-- `enc_cnt`, 16 bits read as `i16` (R53). -/
  encCnt : Half
  /-- `pwm_arr`, `u32`: the PWM period register `ARR` (R54). -/
  pwmArr : Word
deriving DecidableEq, Repr

/-- A command as it reaches the core: requester, word, and the one sample each port would give an operation run for it
(30_encoding.md R93, 20_memory.md R71). DESIGN CHOICE, log entry 3; safe. -/
structure Presented where
  src : Requester
  word : CmdWord
  port : InPorts
deriving DecidableEq, Repr

/-- What the outside does next (30_encoding.md R93, 70_reset_and_hazards.md R270). DESIGN CHOICE, log entry 2; safe. -/
inductive Event where
  /-- A command is presented and accepted. -/
  | command (c : Presented)
  /-- No command: the ports take some levels. -/
  | idle (port : InPorts)
  /-- `rst` is 1 at a rising edge, perhaps with a command in progress, which is abandoned. -/
  | reset (port : InPorts) (inProgress : Option Presented)
deriving DecidableEq, Repr

/-- The machine's state. -/
structure State where
  /-- Operand registers. -/
  x : OperandRegs
  /-- Controller private state. -/
  pi : PiState
  /-- Estimator private state. -/
  vel : VelState
  /-- Configuration registers. -/
  cfg : Tunables
  /-- Output registers. -/
  out : Outputs
  /-- Port levels at the last event. -/
  port : InPorts
  /-- Requester of the command last accepted. -/
  cmdSrc : Requester
  /-- Level of `rst` at the last event. -/
  rst : Bool
  /-- The response the last event produced; none means `rsp_valid` is 0. DESIGN CHOICE, log entry 8; safe. -/
  rsp : Option Response
  /-- The model's own: what the outside will do, oldest first. -/
  inbox : List Event
deriving DecidableEq, Repr

/-- Reset values of the operand registers (10_state.md R59). -/
def OperandRegs.reset : OperandRegs := { now := 0, ref := 0, meas := 0, u := 0 }

/-- Reset values of the controller (10_state.md R59). -/
def PiState.reset : PiState := { integrator := 0, lastMs := 0, firstCall := true, uPrev := 0 }

/-- Reset values of the estimator (10_state.md R59). -/
def VelState.reset : VelState :=
  { prevCount := 0, prevMs := 0, ring := Vector.replicate Config.bufN { dc := 0, dms := 0 }
    sumDeltaCount := 0, sumDeltaMs := 0, idx := 0, filled := 0, velFilt := 0 }

/-- Reset values of the configuration registers: all 0 but `RPM_SCALE` (10_state.md R59). -/
def Tunables.reset : Tunables :=
  { kpQ15 := 0, kiQ15 := 0, uPerRpm := 0, rpmScale := Config.rpmScaleReset, errDeadbandRpm := 0
    intWindowPct := 0, absIntWindowRpm := 0, iClampQ30 := 0, velWindowMs := 0, velIirShift := 0
    encoderPpr := 0 }

/-- Reset values of the outputs: motor off, both lines disabled (10_state.md R59). -/
def Outputs.reset : Outputs := { ccrA := 0, ccrB := 0, en := 0 }

/-- The machine right after reset, `rst` back at 0 (10_state.md R59, 70_reset_and_hazards.md R270). The port levels, the
requester tag and the empty inbox are DESIGN CHOICE, log entries 2, 3 and 4: the spec gives the environment's lines no value. -/
def State.reset : State :=
  { x := OperandRegs.reset, pi := PiState.reset, vel := VelState.reset, cfg := Tunables.reset
    out := Outputs.reset, port := { tickMs := 0, encCnt := 0, pwmArr := 0 }, cmdSrc := .host
    rst := false, rsp := none, inbox := [] }

end Sys2Proof.Machine
end

