-- ==== Sys2Proof/Machine/Operands.lean ====
section
/-! DEFINITION. The one operand form: an absolute 8-bit register address (45_register_access.md R230), the register map
(20_memory.md R61), the legal values (45_register_access.md R236), and reading and writing one whole register
(`MemRead`, `MemWrite`, 00_scope.md R15). -/

namespace Sys2Proof.Machine

/-- The twenty registers of the map (20_memory.md R61). -/
inductive Reg where
  | now | ref | meas | u
  | kpQ15 | kiQ15 | uPerRpm | rpmScale | errDeadbandRpm | intWindowPct | absIntWindowRpm | iClampQ30
  | velWindowMs | velIirShift | encoderPpr
  | ccrA | ccrB | en | enSet | enClr
deriving DecidableEq, Repr

/-- The three groups of the map (20_memory.md R61). -/
inductive RegGroup where
  | operand
  | configuration
  | peripheral
deriving DecidableEq, Repr

/-- The register at a word address; none at the 236 unmapped ones (20_memory.md R61). -/
def Reg.ofAddr (a : Addr) : Option Reg :=
  match a.toNat with
  | 0x00 => some .now
  | 0x01 => some .ref
  | 0x02 => some .meas
  | 0x03 => some .u
  | 0x10 => some .kpQ15
  | 0x11 => some .kiQ15
  | 0x12 => some .uPerRpm
  | 0x13 => some .rpmScale
  | 0x14 => some .errDeadbandRpm
  | 0x15 => some .intWindowPct
  | 0x16 => some .absIntWindowRpm
  | 0x17 => some .iClampQ30
  | 0x18 => some .velWindowMs
  | 0x19 => some .velIirShift
  | 0x1A => some .encoderPpr
  | 0x20 => some .ccrA
  | 0x21 => some .ccrB
  | 0x22 => some .en
  | 0x23 => some .enSet
  | 0x24 => some .enClr
  | _ => none

/-- The word address of a register (20_memory.md R61). -/
def Reg.addr : Reg → Addr
  | .now => 0x00
  | .ref => 0x01
  | .meas => 0x02
  | .u => 0x03
  | .kpQ15 => 0x10
  | .kiQ15 => 0x11
  | .uPerRpm => 0x12
  | .rpmScale => 0x13
  | .errDeadbandRpm => 0x14
  | .intWindowPct => 0x15
  | .absIntWindowRpm => 0x16
  | .iClampQ30 => 0x17
  | .velWindowMs => 0x18
  | .velIirShift => 0x19
  | .encoderPpr => 0x1A
  | .ccrA => 0x20
  | .ccrB => 0x21
  | .en => 0x22
  | .enSet => 0x23
  | .enClr => 0x24

/-- The group of a register (20_memory.md R61). -/
def Reg.group : Reg → RegGroup
  | .now | .ref | .meas | .u => .operand
  | .kpQ15 | .kiQ15 | .uPerRpm | .rpmScale | .errDeadbandRpm | .intWindowPct | .absIntWindowRpm | .iClampQ30
  | .velWindowMs | .velIirShift | .encoderPpr => .configuration
  | .ccrA | .ccrB | .en | .enSet | .enClr => .peripheral

/-- `legal(addr, data)` (45_register_access.md R236). The three read-only registers are refused before any value is judged. -/
def Reg.legal (r : Reg) (data : Word) : Bool :=
  match r with
  | .kpQ15 | .kiQ15 => -32768 ≤ data.toInt && data.toInt ≤ 32767
  | .rpmScale => 1 ≤ data.toInt
  | .errDeadbandRpm | .intWindowPct | .absIntWindowRpm | .iClampQ30 | .encoderPpr => 0 ≤ data.toInt
  | .enSet | .enClr => data.extractLsb' 2 30 == 0
  | .now | .ref | .meas | .u | .uPerRpm | .velWindowMs | .velIirShift => true
  | .ccrA | .ccrB | .en => true

/-- `MemRead(addr, 4)`: the pattern a register reads as; none for the write-only registers, which have no storage
(45_register_access.md R231, 10_state.md R57). -/
def readReg (r : Reg) (s : State) : Option Word :=
  match r with
  | .now => some s.x.now
  | .ref => some s.x.ref
  | .meas => some s.x.meas
  | .u => some s.x.u
  | .kpQ15 => some s.cfg.kpQ15
  | .kiQ15 => some s.cfg.kiQ15
  | .uPerRpm => some s.cfg.uPerRpm
  | .rpmScale => some s.cfg.rpmScale
  | .errDeadbandRpm => some s.cfg.errDeadbandRpm
  | .intWindowPct => some s.cfg.intWindowPct
  | .absIntWindowRpm => some s.cfg.absIntWindowRpm
  | .iClampQ30 => some s.cfg.iClampQ30
  | .velWindowMs => some s.cfg.velWindowMs
  | .velIirShift => some s.cfg.velIirShift
  | .encoderPpr => some s.cfg.encoderPpr
  | .ccrA => some s.out.ccrA
  | .ccrB => some s.out.ccrB
  | .en => some (s.out.en.setWidth 32)
  | .enSet => none
  | .enClr => none

/-- `MemWrite(addr, 4, v)`, and the set and clear of `EN`; none for the read-only registers (45_register_access.md R234,
R237). -/
def writeReg (r : Reg) (v : Word) (s : State) : Option State :=
  match r with
  | .now => some { s with x := { s.x with now := v } }
  | .ref => some { s with x := { s.x with ref := v } }
  | .meas => some { s with x := { s.x with meas := v } }
  | .u => some { s with x := { s.x with u := v } }
  | .kpQ15 => some { s with cfg := { s.cfg with kpQ15 := v } }
  | .kiQ15 => some { s with cfg := { s.cfg with kiQ15 := v } }
  | .uPerRpm => some { s with cfg := { s.cfg with uPerRpm := v } }
  | .rpmScale => some { s with cfg := { s.cfg with rpmScale := v } }
  | .errDeadbandRpm => some { s with cfg := { s.cfg with errDeadbandRpm := v } }
  | .intWindowPct => some { s with cfg := { s.cfg with intWindowPct := v } }
  | .absIntWindowRpm => some { s with cfg := { s.cfg with absIntWindowRpm := v } }
  | .iClampQ30 => some { s with cfg := { s.cfg with iClampQ30 := v } }
  | .velWindowMs => some { s with cfg := { s.cfg with velWindowMs := v } }
  | .velIirShift => some { s with cfg := { s.cfg with velIirShift := v } }
  | .encoderPpr => some { s with cfg := { s.cfg with encoderPpr := v } }
  | .ccrA => none
  | .ccrB => none
  | .en => none
  | .enSet => some { s with out := { s.out with en := s.out.en ||| v.setWidth 2 } }
  | .enClr => some { s with out := { s.out with en := s.out.en &&& ~~~(v.setWidth 2) } }

end Sys2Proof.Machine
end

