-- ==== Sys2Proof/Machine/Ops.lean ====
section
/-! DEFINITION. The operations every command shares: answering, the command error (the only abnormal outcome there is,
60_exceptions.md R250; there is no trap to take and none to return from, R256, R257), the requester check, and what an event
of the outside does before any command runs. -/

namespace Sys2Proof.Machine

/-- `respond(status, data)` (00_scope.md R16, 30_encoding.md R90). -/
def respond (s : State) (status : Status) (data : Word) : State := { s with rsp := some ⟨status, data⟩ }

/-- `raise CmdError(code)`: no state changes, then `respond(code, 0)` (00_scope.md R16, 60_exceptions.md R250). -/
def cmdError (s : State) (code : Status) : State := respond s code 0

/-- An operation only the host may issue: from the debug requester it is refused with `ST_ACCESS`
(45_register_access.md R238). -/
def hostOnly (s : State) (op : State → State) : State :=
  match s.cmdSrc with
  | .host => op s
  | .debug => cmdError s .access

/-- The debug requester may reach the configuration group only (45_register_access.md R231, R234, R238). -/
def mayReach (src : Requester) (r : Reg) : Bool :=
  match src with
  | .host => true
  | .debug => r.group == .configuration

/-- A command is accepted: its tag and the port samples are the current ones, `rst` is 0, and no response stands yet
(30_encoding.md R93). -/
def accept (s : State) (c : Presented) (rest : List Event) : State :=
  { s with port := c.port, cmdSrc := c.src, rst := false, rsp := none, inbox := rest }

/-- Nothing is presented: the ports take their levels and nothing else changes (60_exceptions.md R255, R263). -/
def idleAt (s : State) (port : InPorts) (rest : List Event) : State :=
  { s with port := port, rst := false, rsp := none, inbox := rest }

/-- The outside has nothing further to present: the core keeps all state (60_exceptions.md R263). -/
def waitIdle (s : State) : State := { s with rsp := none }

/-- Hardware reset (70_reset_and_hazards.md R270): every piece of state takes its reset value and no response is produced; the
input ports are the environment's. -/
def hardReset (s : State) (port : InPorts) (rest : List Event) : State :=
  { x := OperandRegs.reset, pi := PiState.reset, vel := VelState.reset, cfg := Tunables.reset
    out := Outputs.reset, port := port, cmdSrc := s.cmdSrc, rst := true, rsp := none, inbox := rest }

/-- Output `cmd_ready` between commands: 0 while `rst` is 1 (70_reset_and_hazards.md R270). -/
def State.cmdReady (s : State) : Bool := !s.rst

/-- Output `rsp_valid` (30_encoding.md R93). -/
def State.rspValid (s : State) : Bool := s.rsp.isSome

/-- The table's word put in front of the stream, from the host, with the ports as they stand. -/
def presentFirst (s : State) (w : CmdWord) : State :=
  { s with inbox := .command { src := .host, word := w, port := s.port } :: s.inbox }

end Sys2Proof.Machine
end

