-- ==== Sys2Proof/Machine/Actuator.lean ====
section
/-! DEFINITION. `ACTUATE` (42_actuator_mapper.md). -/

namespace Sys2Proof.Machine

/-- Step 2: magnitude of a saturated control value, with the source's substitution for `CTRL_MIN`
(42_actuator_mapper.md R162). -/
def magOf (us : Int) : Int := if us = ctrlMin then 1073741824 else absZ us

/-- Step 3: `duty = (mag × top) asr 30`, at most `ARR`, with `top = ARR + 1` exact (42_actuator_mapper.md R163). -/
def dutyOf (mag arr : Int) : Int := min (asr (mag * (arr + 1)) 30) arr

/-- Step 4: the compare pair `(CCR_A, CCR_B)` for `u` and `ARR` (42_actuator_mapper.md R160, R164). -/
def comparePair (u arr : Int) : Int × Int :=
  let us := satCtrl u
  let duty := dutyOf (magOf us) arr
  if 0 < us then (0, duty) else if us < 0 then (duty, 0) else (0, 0)

/-- `ACTUATE` from the host: both compare registers are written (42_actuator_mapper.md R160). -/
def actuateOp (s : State) : State :=
  let d := comparePair s.x.u.toInt s.port.pwmArr.toNat
  respond { s with out := { s.out with ccrA := bits32 d.1, ccrB := bits32 d.2 } } .ok 0

/-- `ACTUATE` (42_actuator_mapper.md R160). -/
def execActuate (s : State) : Host.Outcome State Fault Refusal := .next (hostOnly s actuateOp)

end Sys2Proof.Machine
end

