-- ==== Sys2Proof/Machine/Flags.lean ====
section
/-! DEFINITION. "The core has no condition codes" (10_state.md R26): no operation records overflow or saturation. What it has is
two one-bit conditions that select a path, the saturation test of the anti-windup rule, and the status codes of a response. -/

namespace Sys2Proof.Machine

/-- The controller is `Uninitialized` (10_state.md R29, 43_pi_controller.md R194). -/
def PiState.uninitialized (p : PiState) : Bool := p.firstCall

/-- The sentinel `prev_ms = 0`: the estimator has latched no sample (10_state.md R26, R33). -/
def VelState.uninitialized (v : VelState) : Bool := v.prevMs == 0

/-- The candidate output is beyond a limit and the error pushes further beyond it: the case in which step 7 holds the
integrator (43_pi_controller.md R192). -/
def deepensSaturation (uCand errQ15 : Int) : Bool :=
  (ctrlMax < uCand && 0 < errQ15) || (uCand < ctrlMin && errQ15 < 0)

/-- Numeric status codes; 5 to 7 are never produced (30_encoding.md R91). -/
def Status.code : Status → BitVec 3
  | .ok => 0
  | .op => 1
  | .addr => 2
  | .access => 3
  | .value => 4

/-- The 35-bit response `status ‖ data` (30_encoding.md R90). -/
def Response.word (r : Response) : BitVec 35 := r.status.code ++ r.data

end Sys2Proof.Machine
end

