-- ==== Sys2Proof/Machine/Controller.lean ====
section
/-! DEFINITION. `PI_STEP` and `PI_RESET` (43_pi_controller.md), step by step as R180 labels them, in exact integers. Values of
configuration registers that no write stores (a divisor `RPM_SCALE` of 0, a negative clamp) are log entry 5. -/

namespace Sys2Proof.Machine

/-- Step 1: error after the deadband (43_pi_controller.md R184). -/
def piErr (cfg : Tunables) (ref meas : Int) : Int :=
  if absZ (ref - meas) ≤ cfg.errDeadbandRpm.toInt then 0 else ref - meas

/-- Step 2: feedforward (43_pi_controller.md R185). -/
def piFf (cfg : Tunables) (ref : Int) : Int := satCtrl (cfg.uPerRpm.toInt * ref)

/-- Step 3: the error in Q15 (43_pi_controller.md R186). -/
def piErrQ15 (cfg : Tunables) (err : Int) : Int := clampQ15 (divZ (err * q15One) cfg.rpmScale.toInt)

/-- Step 4: proportional term (43_pi_controller.md R187). -/
def piP (cfg : Tunables) (errQ15 : Int) : Int := satCtrl (cfg.kpQ15.toInt * errQ15)

/-- Step 5: integration window (43_pi_controller.md R188). -/
def piWindow (cfg : Tunables) (ref : Int) : Int :=
  max cfg.absIntWindowRpm.toInt (divZ (absZ ref * cfg.intWindowPct.toInt) 100)

/-- Step 5: the increment of the integrating branch (43_pi_controller.md R190). -/
def piDi (cfg : Tunables) (errQ15 : Int) (deltaMs : Word) : Int :=
  divZ (cfg.kiQ15.toInt * errQ15 * deltaMs.toNat) 1000

/-- Step 5: the integrator candidate, integrating inside the window and frozen outside (43_pi_controller.md R189, R190). -/
def piICand (cfg : Tunables) (err errQ15 window : Int) (deltaMs : Word) (integrator : Int) : Int :=
  if absZ err ≤ window then
    clamp (satCtrl (integrator + piDi cfg errQ15 deltaMs)) (-cfg.iClampQ30.toInt) cfg.iClampQ30.toInt
  else integrator

/-- Step 7: the integrator after the anti-windup rule (43_pi_controller.md R192). -/
def piCommit (uCand errQ15 iCand integrator : Int) : Int :=
  if uCand = satCtrl uCand then iCand
  else if deepensSaturation uCand errQ15 then integrator
  else iCand

/-- The new integrator and the control value of steps 1 to 8 (43_pi_controller.md R184 to R193). -/
def piFull (cfg : Tunables) (ref meas : Int) (deltaMs : Word) (integrator : Int) : Int × Int :=
  let err := piErr cfg ref meas
  let ff := piFf cfg ref
  let errQ15 := piErrQ15 cfg err
  let p := piP cfg errQ15
  let iCand := piICand cfg err errQ15 (piWindow cfg ref) deltaMs integrator
  let i := piCommit (ff + p + iCand) errQ15 iCand integrator
  (i, satCtrl (ff + p + i))

/-- One invocation of the controller: its new state and its return value (43_pi_controller.md R180 to R182). The first-call
test comes before the duplicate-tick test (R181). -/
def piControl (cfg : Tunables) (ref meas now : Word) (p : PiState) : PiState × Word :=
  if p.uninitialized then ({ p with firstCall := false, lastMs := now, uPrev := 0 }, 0)
  else if elapsedMs now p.lastMs = 0 then (p, p.uPrev)
  else
    let r := piFull cfg ref.toInt meas.toInt (elapsedMs now p.lastMs) p.integrator.toInt
    ({ p with integrator := bits32 r.1, lastMs := now, uPrev := bits32 r.2 }, bits32 r.2)

/-- `PI_STEP` from the host: `U` takes the return value, which is also answered (43_pi_controller.md R180). -/
def piStepOp (s : State) : State :=
  let r := piControl s.cfg s.x.ref s.x.meas s.x.now s.pi
  respond { s with x := { s.x with u := r.2 }, pi := r.1 } .ok r.2

/-- `PI_STEP` (43_pi_controller.md R180). -/
def execPiStep (s : State) : Host.Outcome State Fault Refusal := .next (hostOnly s piStepOp)

/-- `PI_RESET` from the host (43_pi_controller.md R196). -/
def piResetOp (s : State) : State :=
  respond { s with pi := { integrator := 0, lastMs := 0, firstCall := true, uPrev := 0 } } .ok 0

/-- `PI_RESET` (43_pi_controller.md R196). -/
def execPiReset (s : State) : Host.Outcome State Fault Refusal := .next (hostOnly s piResetOp)

end Sys2Proof.Machine
end

