-- ==== Sys2Proof/Machine/Estimator.lean ====
section
/-! DEFINITION. `VEL_STEP` and `VEL_RESET` (41_velocity_estimator.md), step by step as R130 labels them. The sums live in their
32-bit containers, where no reachable value wraps (10_state.md R35, R36; log entry 6). -/

namespace Sys2Proof.Machine

/-- `ring[i]`. -/
def VelState.slot (v : VelState) (i : BitVec 5) : Slot := v.ring[i.toNat]'i.isLt

/-- The oldest active slot, `(idx − filled) mod 32` (10_state.md R38). -/
def VelState.oldest (v : VelState) : BitVec 5 := v.idx - v.filled.setWidth 5

/-- Replace `ring[i]`, keeping both running sums in step (41_velocity_estimator.md R136, R137). -/
def VelState.replaceSlot (v : VelState) (i : BitVec 5) (new : Slot) : VelState :=
  { v with
    ring := v.ring.set i.toNat new i.isLt
    sumDeltaCount := v.sumDeltaCount - (v.slot i).dc.signExtend 32 + new.dc.signExtend 32
    sumDeltaMs := v.sumDeltaMs - (v.slot i).dms.setWidth 32 + new.dms.setWidth 32 }

/-- The cap of a sample's time, `min(delta_ms, 65535)` (41_velocity_estimator.md R136). -/
def capMs (deltaMs : Word) : Half := BitVec.ofNat 16 (min deltaMs.toNat 65535)

/-- Step 3: the sample replaces the slot at `idx`; `idx` and `filled` advance (41_velocity_estimator.md R136). -/
def pushSample (v : VelState) (sample : Slot) : VelState :=
  { v.replaceSlot v.idx sample with
    idx := v.idx + 1
    filled := BitVec.ofNat 6 (min (v.filled.toNat + 1) 32) }

/-- One pass of step 4: drop the oldest sample and zero its slot; `idx` stays (41_velocity_estimator.md R137). -/
def dropOldest (v : VelState) : VelState :=
  { v.replaceSlot v.oldest { dc := 0, dms := 0 } with filled := v.filled - 1 }

/-- The condition of step 4's loop (41_velocity_estimator.md R137). -/
def needsTrim (window : Word) (v : VelState) : Bool := window.toNat < v.sumDeltaMs.toNat && 1 < v.filled.toNat

/-- Step 4's loop with a bound on its passes. -/
def trimLoop (window : Word) : Nat → VelState → VelState
  | 0, v => v
  | passes + 1, v => if needsTrim window v then trimLoop window passes (dropOldest v) else v

/-- Step 4: every pass takes one from `filled` and the loop stops at 1, so `filled` passes are never too few
(41_velocity_estimator.md R137, 70_reset_and_hazards.md R297). -/
def trim (window : Word) (v : VelState) : VelState := trimLoop window v.filled.toNat v

/-- Step 5: `rpm_den = 4 × ENCODER_PPR × sum_delta_ms` (41_velocity_estimator.md R138). -/
def rpmDen (cfg : Tunables) (v : VelState) : Int := 4 * cfg.encoderPpr.toInt * v.sumDeltaMs.toNat

/-- Step 5 before the clamp: the quotient, rounded toward zero (41_velocity_estimator.md R139). -/
def rpmRaw (cfg : Tunables) (v : VelState) : Int := divZ (v.sumDeltaCount.toInt * 60000) (rpmDen cfg v)

/-- Step 5: `rpm`, clamped to the `i32` range (41_velocity_estimator.md R139). -/
def rpmOf (cfg : Tunables) (v : VelState) : Int := clamp (rpmRaw cfg v) (-2147483648) 2147483647

/-- Step 6: the shift, `clamp(VEL_IIR_SHIFT, 0, 8)` (41_velocity_estimator.md R140). -/
def iirShift (cfg : Tunables) : Nat := (clamp cfg.velIirShift.toInt 0 8).toNat

/-- Step 6: the smoothed speed (41_velocity_estimator.md R140). -/
def smooth (old rpm : Int) (k : Nat) : Int := old + asr (rpm - old) k

/-- Steps 2 to 4 of a call with `delta_ms > 0`: previous sample, ring, trim (41_velocity_estimator.md R135 to R137). -/
def takeSample (cfg : Tunables) (now : Word) (cnt : Half) (v : VelState) : VelState :=
  trim cfg.velWindowMs
    (pushSample { v with prevCount := cnt, prevMs := now }
      { dc := countDiff cnt v.prevCount, dms := capMs (elapsedMs now v.prevMs) })

/-- Steps 5 and 6: `vel_filt` is left alone by a guard (41_velocity_estimator.md R138 to R140). -/
def updateFilter (cfg : Tunables) (v : VelState) : VelState :=
  if v.sumDeltaMs = 0 then v
  else if rpmDen cfg v = 0 then v
  else { v with velFilt := bits32 (smooth v.velFilt.toInt (rpmOf cfg v) (iirShift cfg)) }

/-- One invocation of the estimator: its new state and its return value (41_velocity_estimator.md R130). -/
def velEstimate (cfg : Tunables) (now : Word) (cnt : Half) (v : VelState) : VelState × Word :=
  if v.uninitialized then ({ v with prevCount := cnt, prevMs := now }, 0)
  else if elapsedMs now v.prevMs = 0 then (v, v.velFilt)
  else
    let v' := updateFilter cfg (takeSample cfg now cnt v)
    (v', v'.velFilt)

/-- `VEL_STEP` from the host: `MEAS` takes the return value, which is also answered (41_velocity_estimator.md R130). -/
def velStepOp (s : State) : State :=
  let r := velEstimate s.cfg s.x.now s.port.encCnt s.vel
  respond { s with x := { s.x with meas := r.2 }, vel := r.1 } .ok r.2

/-- `VEL_STEP` (41_velocity_estimator.md R130). -/
def execVelStep (s : State) : Host.Outcome State Fault Refusal := .next (hostOnly s velStepOp)

/-- `VEL_RESET` from the host (41_velocity_estimator.md R141). -/
def velResetOp (s : State) : State :=
  respond
    { s with
      vel :=
        { prevCount := 0, prevMs := 0, ring := Vector.replicate Config.bufN { dc := 0, dms := 0 }
          sumDeltaCount := 0, sumDeltaMs := 0, idx := 0, filled := 0, velFilt := 0 } }
    .ok 0

/-- `VEL_RESET` (41_velocity_estimator.md R141). -/
def execVelReset (s : State) : Host.Outcome State Fault Refusal := .next (hostOnly s velResetOp)

end Sys2Proof.Machine
end

