-- ==== Sys2Proof/Machine/RegAccess.lean ====
section
/-! DEFINITION. `RD` and `WR` (45_register_access.md). The errors come in the order of 60_exceptions.md R254: address, then
access, then value. -/

namespace Sys2Proof.Machine

/-- `RD addr` (45_register_access.md R231). -/
def execRd (addr : Addr) (s : State) : Host.Outcome State Fault Refusal :=
  .next <|
    match Reg.ofAddr addr with
    | none => cmdError s .addr
    | some r =>
      if mayReach s.cmdSrc r then
        match readReg r s with
        | none => cmdError s .access
        | some v => respond s .ok v
      else cmdError s .access

/-- `WR addr, data` (45_register_access.md R234). -/
def execWr (addr : Addr) (data : Word) (s : State) : Host.Outcome State Fault Refusal :=
  .next <|
    match Reg.ofAddr addr with
    | none => cmdError s .addr
    | some r =>
      if mayReach s.cmdSrc r then
        match writeReg r data s with
        | none => cmdError s .access
        | some t => if r.legal data then respond t .ok 0 else cmdError s .value
      else cmdError s .access

end Sys2Proof.Machine
end

