-- ==== Sys2Proof/Machine/Tick.lean ====
section
/-! DEFINITION. `GET_MS` (44_loop_driver.md R210). -/

namespace Sys2Proof.Machine

/-- Sample the tick into `NOW` and answer it. -/
def getMsOp (s : State) : State :=
  respond { s with x := { s.x with now := s.port.tickMs } } .ok s.port.tickMs

/-- `GET_MS` (44_loop_driver.md R210). -/
def execGetMs (s : State) : Host.Outcome State Fault Refusal := .next (hostOnly s getMsOp)

end Sys2Proof.Machine
end

