-- ==== Sys2Proof/Machine/Dispatch.lean ====
section
/-! DEFINITION. One arm per command, each a direct call of its meaning. -/

namespace Sys2Proof.Machine

def exec (i : Instr) (s : State) : Host.Outcome State Fault Refusal :=
  match i with
  | .rd addr => Sys2Proof.Machine.execRd addr s
  | .wr addr data => Sys2Proof.Machine.execWr addr data s
  | .getMs => Sys2Proof.Machine.execGetMs s
  | .velStep => Sys2Proof.Machine.execVelStep s
  | .piStep => Sys2Proof.Machine.execPiStep s
  | .actuate => Sys2Proof.Machine.execActuate s
  | .piReset => Sys2Proof.Machine.execPiReset s
  | .velReset => Sys2Proof.Machine.execVelReset s

end Sys2Proof.Machine
end

