-- ==== Sys2Proof/Machine/Step.lean ====
section
/-! DEFINITION. One step: the core meets the next event of the outside. A command word is decoded and run, or answered with
`ST_OP`; commands run one at a time, each to completion (10_state.md R25, 20_memory.md R70). -/

namespace Sys2Proof.Machine

/-- Run one command word in the state that has accepted it; an illegal word is answered and changes nothing
(30_encoding.md R85, 60_exceptions.md R251). -/
def runWord (w : CmdWord) (s : State) : Host.Outcome State Fault Refusal :=
  match Sys2Proof.decode w with
  | .ok i => exec i s
  | .error _ => .next (cmdError s .op)

/-- One event of the outside, handled to completion. -/
def step (s : State) : Host.Outcome State Fault Refusal :=
  match s.inbox with
  | [] => .next (waitIdle s)
  | .idle port :: rest => .next (idleAt s port rest)
  | .reset port _ :: rest => .next (hardReset s port rest)
  | .command c :: rest => runWord c.word (accept s c rest)

/-- `s` with a word of the opcode table presented by the host as the next command. The core fetches nothing
(10_state.md R25): the command stream is where its next instruction comes from (log entry 2). -/
def State.withFetchWord (s : State) (nbits w : Nat) : State := presentFirst s (Sys2Proof.tableWord nbits w)

end Sys2Proof.Machine
end

