-- ==== Sys2Proof/Machine/HostSeq.lean ====
section
/-! DEFINITION. The host's side: the pseudo-instructions (30_encoding.md R89), the loop driver (44_loop_driver.md R212 to R217)
and the assembler's names (R88). "The core hardware holds no loop-driver state" (00_scope.md R6): nothing here is part of
`State`, and `step` reads none of it. -/

namespace Sys2Proof.Machine

/-- `RD reg` (30_encoding.md R88). -/
def asmRd (r : Reg) : Instr := .rd r.addr

/-- `WR reg, value`: a signed decimal `v` is encoded as `wrap_u32(v)` (30_encoding.md R88). -/
def asmWr (r : Reg) (v : Int) : Instr := .wr r.addr (BitVec.ofInt 32 v)

/-- `SETUP` (44_loop_driver.md R214). -/
def setupSeq : List Instr :=
  [asmWr .ref Config.refDefault, asmWr .now 0, asmWr .meas 0, asmWr .u 0, asmWr .enSet 3, .piReset]

/-- `TICK` (44_loop_driver.md R212). -/
def tickSeq : List Instr := [.getMs, .velStep, .piStep, .actuate]

/-- `GPIO_SET n`, `n` 0 or 1 (30_encoding.md R89). -/
def gpioSet (n : Fin 2) : Instr := asmWr .enSet (2 ^ n.val)

/-- `GPIO_CLEAR n`, `n` 0 or 1 (30_encoding.md R89). -/
def gpioClear (n : Fin 2) : Instr := asmWr .enClr (2 ^ n.val)

/-- `MOTOR_ENABLE` (30_encoding.md R89). -/
def motorEnable : Instr := asmWr .enSet 3

/-- Where the host stands within one `LOOP_ONCE` (44_loop_driver.md R216). -/
inductive LoopPhase where
  /-- Busy-waiting on `GET_MS`. -/
  | poll
  /-- At a 4000 ms boundary: about to read `REF`. -/
  | readRef
  /-- About to write the negated reference. -/
  | writeRef (value : Word)
  | velStep
  | piStep
  | actuate
  /-- The iteration is over. -/
  | finished
deriving DecidableEq, Repr

/-- The loop driver's own state: the last serviced tick (44_loop_driver.md R217) and the place within the iteration. -/
structure HostDriver where
  lastServiced : Word
  phase : LoopPhase
deriving DecidableEq, Repr

/-- The driver after `SETUP`, about to begin `LOOP_ONCE` (44_loop_driver.md R217). -/
def HostDriver.afterSetup : HostDriver := { lastServiced := 0, phase := .poll }

/-- A tick value at which the driver stops waiting: a 10 ms boundary not serviced yet (44_loop_driver.md R216). -/
def isNewBoundary (t lastServiced : Word) : Bool := t.toNat % Config.periodCtrl == 0 && t != lastServiced

/-- A boundary at which the reference changes sign (44_loop_driver.md R215). -/
def isFlipBoundary (t : Word) : Bool := t.toNat % Config.periodRef == 0

/-- The command the driver issues next; none when its iteration is over (44_loop_driver.md R216). -/
def HostDriver.issues (d : HostDriver) : Option Instr :=
  match d.phase with
  | .poll => some .getMs
  | .readRef => some (asmRd .ref)
  | .writeRef value => some (.wr Reg.ref.addr value)
  | .velStep => some .velStep
  | .piStep => some .piStep
  | .actuate => some .actuate
  | .finished => none

/-- The driver after the response data of the command it issued (44_loop_driver.md R216). The negation of −2^31, which R215
forbids the host, wraps: DESIGN CHOICE, log entry 9; unsafe for that reference. -/
def HostDriver.answered (d : HostDriver) (data : Word) : HostDriver :=
  match d.phase with
  | .poll =>
    if isNewBoundary data d.lastServiced then
      { lastServiced := data, phase := if isFlipBoundary data then .readRef else .velStep }
    else d
  | .readRef => { d with phase := .writeRef (BitVec.ofInt 32 (-data.toInt)) }
  | .writeRef _ => { d with phase := .velStep }
  | .velStep => { d with phase := .piStep }
  | .piStep => { d with phase := .actuate }
  | .actuate => { d with phase := .finished }
  | .finished => d

/-- The commands the driver issues while the answers last, until its iteration is over (44_loop_driver.md R216). -/
def HostDriver.issued : HostDriver → List Word → List Instr
  | _, [] => []
  | d, data :: answers =>
    match d.issues with
    | none => []
    | some i => i :: (d.answered data).issued answers

/-- The four operations of a control tick (44_loop_driver.md R212). -/
def isTickOperation : Instr → Bool
  | .getMs => true
  | .velStep => true
  | .piStep => true
  | .actuate => true
  | .rd _ => false
  | .wr _ _ => false
  | .piReset => false
  | .velReset => false

/-- The tick within an iteration: it begins at the last `GET_MS`, "the `GET_MS` of the `TICK`"; the ones before it are the wait
(44_loop_driver.md R216). -/
def tickOf : List Instr → List Instr
  | [] => []
  | i :: rest => if rest.contains .getMs then tickOf rest else i :: rest

/-- The next `LOOP_ONCE` (44_loop_driver.md R216): the last serviced tick is kept. -/
def HostDriver.again (d : HostDriver) : HostDriver := { d with phase := .poll }

/-- The name of a register in the assembler's syntax (20_memory.md R61, 30_encoding.md R88). -/
def Reg.name : Reg → String
  | .now => "NOW"
  | .ref => "REF"
  | .meas => "MEAS"
  | .u => "U"
  | .kpQ15 => "KP_Q15"
  | .kiQ15 => "KI_Q15"
  | .uPerRpm => "U_PER_RPM"
  | .rpmScale => "RPM_SCALE"
  | .errDeadbandRpm => "ERR_DEADBAND_RPM"
  | .intWindowPct => "INT_WINDOW_PCT"
  | .absIntWindowRpm => "ABS_INT_WINDOW_RPM"
  | .iClampQ30 => "I_CLAMP_Q30"
  | .velWindowMs => "VEL_WINDOW_MS"
  | .velIirShift => "VEL_IIR_SHIFT"
  | .encoderPpr => "ENCODER_PPR"
  | .ccrA => "CCR_A"
  | .ccrB => "CCR_B"
  | .en => "EN"
  | .enSet => "EN_SET"
  | .enClr => "EN_CLR"

/-- The operand text of an address: a register's name, or its number where it names none (30_encoding.md R88). -/
def addrText (a : Addr) : String :=
  match Reg.ofAddr a with
  | some r => r.name
  | none => "0x" ++ String.ofList [Nat.digitChar (a.toNat / 16), Nat.digitChar (a.toNat % 16)]

/-- A command in the spec's own syntax, the value as a signed decimal (30_encoding.md R88). -/
def asmText : Instr → String
  | .rd addr => "RD " ++ addrText addr
  | .wr addr data => "WR " ++ addrText addr ++ ", " ++ toString data.toInt
  | .getMs => "GET_MS"
  | .velStep => "VEL_STEP"
  | .piStep => "PI_STEP"
  | .actuate => "ACTUATE"
  | .piReset => "PI_RESET"
  | .velReset => "VEL_RESET"

end Sys2Proof.Machine
end

