-- ==== Sys2Proof/Safety.lean ====
section
/-! DEFINITION. What counts as a good state and a good input, in the terms the statements use: legal configuration values
(10_state.md R40), the invariants of the controller and the estimator (R31, R38), and the premises on the environment
(70_reset_and_hazards.md R284). None of it is checked by the machine. -/

namespace Sys2Proof.Machine

/-- Every configuration register holds a value of its legal range (10_state.md R41 to R51). -/
abbrev ConfigLegal (c : Tunables) : Prop :=
  (-32768 ≤ c.kpQ15.toInt ∧ c.kpQ15.toInt ≤ 32767) ∧ (-32768 ≤ c.kiQ15.toInt ∧ c.kiQ15.toInt ≤ 32767) ∧
  1 ≤ c.rpmScale.toInt ∧ 0 ≤ c.errDeadbandRpm.toInt ∧ 0 ≤ c.intWindowPct.toInt ∧
  0 ≤ c.absIntWindowRpm.toInt ∧ 0 ≤ c.iClampQ30.toInt ∧ 0 ≤ c.encoderPpr.toInt

/-- A value of the control range `[CTRL_MIN, CTRL_MAX]` (30_encoding.md R102). -/
abbrev InCtrlRange (v : Int) : Prop := -(2 ^ 30) ≤ v ∧ v ≤ 2 ^ 30 - 1

/-- The unconditional invariants of the controller (10_state.md R31 (a) and (d)). -/
abbrev ControllerSound (p : PiState) : Prop := InCtrlRange p.integrator.toInt ∧ InCtrlRange p.uPrev.toInt

/-- Slot number `(idx − filled + j) mod 32` (10_state.md R38): for `j` below `filled` the active window, oldest first; for the
rest of `0 .. 31` the slots outside it. -/
def VelState.windowSlot (v : VelState) (j : Nat) : Slot := v.slot (v.oldest + BitVec.ofNat 5 j)

/-- The active window, oldest first (10_state.md R38). -/
def VelState.active (v : VelState) : List Slot := (List.range v.filled.toNat).map v.windowSlot

/-- The invariants at rest of 10_state.md R38 that hold whatever the configuration does: the sums are those of the active
window, a slot outside it is `(0, 0)`, an active slot has `dms ≥ 1`. -/
abbrev EstimatorSound (v : VelState) : Prop :=
  v.filled.toNat ≤ 32 ∧
  v.sumDeltaCount.toInt = (v.active.map fun sl => sl.dc.toInt).sum ∧
  v.sumDeltaMs.toNat = (v.active.map fun sl => sl.dms.toNat).sum ∧
  (∀ j < 32, v.filled.toNat ≤ j → v.windowSlot j = { dc := 0, dms := 0 }) ∧
  (∀ j < v.filled.toNat, 1 ≤ (v.windowSlot j).dms.toNat)

/-- The invariant of the machine: legal configuration, controller and estimator sound. -/
abbrev Sound (s : State) : Prop := ConfigLegal s.cfg ∧ ControllerSound s.pi ∧ EstimatorSound s.vel

/-- Premises P1 and P2 for two samples of a timestamp: the second is `d` milliseconds of true time after the first, with `d`
below `2^32` (70_reset_and_hazards.md R284). -/
abbrev TrueElapsed (before after : Word) (d : Nat) : Prop := d < 2 ^ 32 ∧ after = before + BitVec.ofNat 32 d

/-- Premise P3: the timestamps given to successive calls are a strictly rising sequence of moments, in milliseconds, modulo `2^32`
(70_reset_and_hazards.md R284). The moments are given apart: the stamps alone cannot tell a step back by `g` from one forward by
`2^32 − g`. DEDUCED, log entry 11; safe. -/
abbrev MonotoneTicks (moments : List Int) (stamps : List Word) : Prop :=
  moments.Pairwise (· < ·) ∧ stamps = moments.map (BitVec.ofInt 32)

/-- Premise P3 for two successive timestamps: the second names a moment `d` milliseconds later than the first, `d` above 0, so that
neither a duplicate nor a backward step satisfies it (70_reset_and_hazards.md R284; log entry 11). -/
abbrev FreshTick (before after : Word) (d : Int) : Prop := 0 < d ∧ after = before + BitVec.ofInt 32 d

/-- Premise P3 broken: the second timestamp is `g` milliseconds earlier than the first (70_reset_and_hazards.md R286). -/
abbrev BackwardStep (before after : Word) (g : Int) : Prop := 0 < g ∧ g < 2 ^ 32 ∧ after = before - BitVec.ofInt 32 g

/-- Premise P4 for two samples of the counter: the second is the first moved by `m` counts, `m` within 16 signed bits
(70_reset_and_hazards.md R284). -/
abbrev TrueMovement (before after : Half) (m : Int) : Prop :=
  -32768 ≤ m ∧ m ≤ 32767 ∧ after = before + BitVec.ofInt 16 m

/-- Premise P5: the period the timer uses is the one `ACTUATE` sampled (70_reset_and_hazards.md R284). -/
abbrev SamePeriod (sampled used : Word) : Prop := used = sampled

/-- Premise P6: of the commands the host issues within a tick, the four operations are those of 44_loop_driver.md R212, each once and
in that order. Other commands may stand between them, as the `RD REF` and `WR REF` of a flip do (R216). DEDUCED, log entry 11;
safe. -/
abbrev TickOrder (issued : List Instr) : Prop := issued.filter isTickOperation = tickSeq

/-- Premise P7: successive ticks are one control period apart (70_reset_and_hazards.md R284: not needed for any rule). -/
abbrev ControlCadence (before after : Word) : Prop := TrueElapsed before after Config.periodCtrl

/-- The private state of the core, which no address reaches (10_state.md R58). -/
abbrev SamePublic (s t : State) : Prop :=
  s.x = t.x ∧ s.cfg = t.cfg ∧ s.out = t.out ∧ s.port = t.port ∧ s.cmdSrc = t.cmdSrc ∧ s.rst = t.rst ∧ s.rsp = t.rsp ∧
  s.inbox = t.inbox

end Sys2Proof.Machine
end

