-- ==== Sys2Proof/Certificates/Slice0/Obligations.lean ====
section
/-! DEFINITION. The statements for the provers. Each docstring names the rule of spec/ it formalises. Values are written out
from the rules in exact integers, not by the model's own helpers, wherever that is possible. -/

open Sys2Proof Sys2Proof.Machine

/-- 30_encoding.md R85, 92_eei_decisions.md D38 (decoding is a bijection between legal words and commands): no bit of an
encoding is dropped. -/
def Obligations.DecodeOfEncodeIsCommand : Prop :=
  ∀ i : Instr, i.wellFormed = true → decode (encode i) = .ok i

/-- 30_encoding.md R85, the other direction: a word that decodes is the encoding of what it decodes to, so every legal word has
one meaning and no two legal words share one. -/
def Obligations.DecodedWordIsItsEncoding : Prop :=
  ∀ (w : CmdWord) (i : Instr), decode w = .ok i → encode i = w

/-- 30_encoding.md R83: "a word `w` is the command of a row when `(w & mask) = match`. No word matches two rows." -/
def Obligations.DecodeFollowsOpcodeMap : Prop :=
  (∀ w : CmdWord,
    (w &&& 0xFF00FFFFFFFFFFFF = 0x0100000000000000 ↔ decode w = .ok (.rd (w.extractLsb' 48 8))) ∧
    (w &&& 0xFF00FFFF00000000 = 0x0200000000000000 ↔ decode w = .ok (.wr (w.extractLsb' 48 8) (w.extractLsb' 0 32))) ∧
    (w &&& 0xFFFFFFFFFFFFFFFF = 0x1000000000000000 ↔ decode w = .ok .getMs) ∧
    (w &&& 0xFFFFFFFFFFFFFFFF = 0x1100000000000000 ↔ decode w = .ok .velStep) ∧
    (w &&& 0xFFFFFFFFFFFFFFFF = 0x1200000000000000 ↔ decode w = .ok .piStep) ∧
    (w &&& 0xFFFFFFFFFFFFFFFF = 0x1300000000000000 ↔ decode w = .ok .actuate) ∧
    (w &&& 0xFFFFFFFFFFFFFFFF = 0x2000000000000000 ↔ decode w = .ok .piReset) ∧
    (w &&& 0xFFFFFFFFFFFFFFFF = 0x2100000000000000 ↔ decode w = .ok .velReset)) ∧
  (∀ (w : CmdWord) (i j : Instr),
    w &&& (opcodeRow i).2 = (opcodeRow i).1 → w &&& (opcodeRow j).2 = (opcodeRow j).1 → opcodeRow i = opcodeRow j)

/-- 30_encoding.md R86, the list of illegal encodings: exactly these words are refused by the decoder. -/
def Obligations.IllegalWordsAreTheListed : Prop :=
  ∀ w : CmdWord,
    (∃ e, decode w = .error e) ↔
      w.extractLsb' 56 8 ∉ [0x01, 0x02, 0x10, 0x11, 0x12, 0x13, 0x20, 0x21] ∨
      w.extractLsb' 32 16 ≠ 0 ∨
      (w.extractLsb' 56 8 ∈ [0x10, 0x11, 0x12, 0x13, 0x20, 0x21] ∧
        (w.extractLsb' 48 8 ≠ 0 ∨ w.extractLsb' 0 32 ≠ 0)) ∨
      (w.extractLsb' 56 8 = 0x01 ∧ w.extractLsb' 0 32 ≠ 0)

/-- Words written out in 30_encoding.md R83, R88 and 45_register_access.md R236, R237. -/
def Obligations.SpecWordsDecodeAsListed : Prop :=
  decode 0x02010000FFFFF830 = .ok (.wr 0x01 0xFFFFF830) ∧
  decode 0x0121000000000000 = .ok (.rd 0x21) ∧
  decode 0x1000000000000000 = .ok .getMs ∧
  decode 0x1100000000000000 = .ok .velStep ∧
  decode 0x1200000000000000 = .ok .piStep ∧
  decode 0x1300000000000000 = .ok .actuate ∧
  decode 0x2000000000000000 = .ok .piReset ∧
  decode 0x2100000000000000 = .ok .velReset

/-- A step runs the decoded command: in the state that has accepted it, with its requester tag and its port samples
(30_encoding.md R93; the acceptance is the model's, log entries 2, 3 and 4). -/
def Obligations.StepRunsDecodedCommand : Prop :=
  ∀ (s : State) (c : Presented) (rest : List Event) (i : Instr),
    s.inbox = .command c :: rest → decode c.word = .ok i → i.wellFormed = true →
    step s = exec i { s with port := c.port, cmdSrc := c.src, rst := false, rsp := none, inbox := rest }

/-- 60_exceptions.md R251 and 30_encoding.md R85: an illegal word is answered `ST_OP` with data 0 and changes nothing, whoever
presents it. How the state holds that the word was accepted (`port`, `cmdSrc`, `rst`, `inbox`) is the model's choice (log
entries 2, 3 and 4). -/
def Obligations.IllegalWordAnswersStOp : Prop :=
  ∀ (s : State) (c : Presented) (rest : List Event) (e : DecodeError),
    s.inbox = .command c :: rest → decode c.word = .error e →
    step s = .next { s with port := c.port, cmdSrc := c.src, rst := false, rsp := some ⟨.op, 0⟩, inbox := rest }

/-- 93_implementation_defined.md (no undefined behaviour), 30_encoding.md R90: every state has a next state; a command, legal or
not, has exactly one response. The third clause, that a step which takes no command leaves no response, is the spec's for a reset
only (70_reset_and_hazards.md R270); for an idle moment and an empty inbox it is the model's choice (log entries 2 and 8). -/
def Obligations.EveryStepAnswersOneResponse : Prop :=
  (∀ s : State, ∃ t, step s = .next t) ∧
  (∀ (s : State) (c : Presented) (rest : List Event), s.inbox = .command c :: rest →
    ∃ t r, step s = .next t ∧ t.rsp = some r ∧ t.inbox = rest) ∧
  (∀ (s : State), (∀ c rest, s.inbox ≠ .command c :: rest) → ∃ t, step s = .next t ∧ t.rsp = none)

/-- 30_encoding.md R90, R91: `rsp = status ‖ data`, bits 34:32 the status code, bits 31:0 the data. -/
def Obligations.ResponseIsStatusThenData : Prop :=
  (∀ r : Response, r.word.extractLsb' 32 3 = r.status.code ∧ r.word.extractLsb' 0 32 = r.data) ∧
  [Status.ok, .op, .addr, .access, .value].map Status.code = [0, 1, 2, 3, 4]

/-- 60_exceptions.md R250: a command error changes no state at all and its response carries data 0. -/
def Obligations.CommandErrorChangesNothing : Prop :=
  ∀ (i : Instr) (s t : State) (r : Response),
    exec i s = .next t → t.rsp = some r → r.status ≠ .ok → r.data = 0 ∧ t = { s with rsp := some r }

/-- 60_exceptions.md R254: the status of every command, the first that applies in the fixed order; `ST_OK` when none does.
The legality test of a word is 30_encoding.md R85, the value test 45_register_access.md R236 by its refused patterns. -/
def Obligations.StatusFollowsFixedOrder : Prop :=
  ∀ (s : State) (c : Presented) (rest : List Event), s.inbox = .command c :: rest →
    let op := c.word.extractLsb' 56 8
    let addr := c.word.extractLsb' 48 8
    let rsv := c.word.extractLsb' 32 16
    let data := c.word.extractLsb' 0 32
    let legalWord : Prop :=
      rsv = 0 ∧ ((op = 0x01 ∧ data = 0) ∨ op = 0x02 ∨
        (op ∈ [0x10, 0x11, 0x12, 0x13, 0x20, 0x21] ∧ addr = 0 ∧ data = 0))
    let mapped : Prop := addr.toNat ≤ 0x03 ∨ (0x10 ≤ addr.toNat ∧ addr.toNat ≤ 0x1A) ∨
      (0x20 ≤ addr.toNat ∧ addr.toNat ≤ 0x24)
    let config : Prop := 0x10 ≤ addr.toNat ∧ addr.toNat ≤ 0x1A
    let refused : Prop :=
      (addr ∈ [0x10, 0x11] ∧ 0x8000 ≤ data.toNat ∧ data.toNat ≤ 0xFFFF7FFF) ∨
      (addr = 0x13 ∧ (data.toNat = 0 ∨ 0x80000000 ≤ data.toNat)) ∨
      (addr ∈ [0x14, 0x15, 0x16, 0x17, 0x1A] ∧ 0x80000000 ≤ data.toNat) ∨
      (addr ∈ [0x23, 0x24] ∧ 4 ≤ data.toNat)
    ∃ (t : State) (st : Status) (d : Word), step s = .next t ∧ t.rsp = some ⟨st, d⟩ ∧
      (¬ legalWord → st = .op) ∧
      (legalWord → c.src = .debug → op ≠ 0x01 → op ≠ 0x02 → st = .access) ∧
      (legalWord → c.src = .host → op ≠ 0x01 → op ≠ 0x02 → st = .ok) ∧
      (legalWord → op = 0x01 ∨ op = 0x02 → ¬ mapped → st = .addr) ∧
      (legalWord → op = 0x01 ∨ op = 0x02 → mapped →
        ((c.src = .debug ∧ ¬ config) ∨ (op = 0x02 ∧ addr ∈ [0x20, 0x21, 0x22]) ∨
          (op = 0x01 ∧ addr ∈ [0x23, 0x24])) → st = .access) ∧
      (legalWord → op = 0x01 ∨ op = 0x02 → mapped →
        ¬ ((c.src = .debug ∧ ¬ config) ∨ (op = 0x02 ∧ addr ∈ [0x20, 0x21, 0x22]) ∨
          (op = 0x01 ∧ addr ∈ [0x23, 0x24])) →
        (op = 0x02 ∧ refused → st = .value) ∧ (¬ (op = 0x02 ∧ refused) → st = .ok))

/-- 45_register_access.md R231: what `RD` answers, for every address and both requesters; it writes nothing. -/
def Obligations.RdAnswersTheRegister : Prop :=
  ∀ (s : State) (addr : Addr),
    let mapped : Prop := addr.toNat ≤ 0x03 ∨ (0x10 ≤ addr.toNat ∧ addr.toNat ≤ 0x1A) ∨
      (0x20 ≤ addr.toNat ∧ addr.toNat ≤ 0x24)
    let config : Prop := 0x10 ≤ addr.toNat ∧ addr.toNat ≤ 0x1A
    (¬ mapped → exec (.rd addr) s = .next { s with rsp := some ⟨.addr, 0⟩ }) ∧
    (mapped → s.cmdSrc = .debug → ¬ config → exec (.rd addr) s = .next { s with rsp := some ⟨.access, 0⟩ }) ∧
    (s.cmdSrc = .host → addr ∈ [0x23, 0x24] → exec (.rd addr) s = .next { s with rsp := some ⟨.access, 0⟩ }) ∧
    (∀ v : Word,
      (addr, v) ∈ [(0x10, s.cfg.kpQ15), (0x11, s.cfg.kiQ15), (0x12, s.cfg.uPerRpm), (0x13, s.cfg.rpmScale),
        (0x14, s.cfg.errDeadbandRpm), (0x15, s.cfg.intWindowPct), (0x16, s.cfg.absIntWindowRpm),
        (0x17, s.cfg.iClampQ30), (0x18, s.cfg.velWindowMs), (0x19, s.cfg.velIirShift), (0x1A, s.cfg.encoderPpr)] →
      exec (.rd addr) s = .next { s with rsp := some ⟨.ok, v⟩ }) ∧
    (∀ v : Word, s.cmdSrc = .host →
      (addr, v) ∈ [(0x00, s.x.now), (0x01, s.x.ref), (0x02, s.x.meas), (0x03, s.x.u), (0x20, s.out.ccrA),
        (0x21, s.out.ccrB), (0x22, BitVec.ofNat 32 s.out.en.toNat)] →
      exec (.rd addr) s = .next { s with rsp := some ⟨.ok, v⟩ })

/-- 45_register_access.md R234, R235(a): the host writes an operand register; every pattern is stored and nothing else
changes. -/
def Obligations.WrStoresOperandRegister : Prop :=
  ∀ (s : State) (v : Word), s.cmdSrc = .host →
    exec (.wr 0x00 v) s = .next { s with x := { s.x with now := v }, rsp := some ⟨.ok, 0⟩ } ∧
    exec (.wr 0x01 v) s = .next { s with x := { s.x with ref := v }, rsp := some ⟨.ok, 0⟩ } ∧
    exec (.wr 0x02 v) s = .next { s with x := { s.x with meas := v }, rsp := some ⟨.ok, 0⟩ } ∧
    exec (.wr 0x03 v) s = .next { s with x := { s.x with u := v }, rsp := some ⟨.ok, 0⟩ }

/-- 45_register_access.md R234, R235(b), R236, R238: either requester writes a legal value to a configuration register; it is
stored and nothing else changes. -/
def Obligations.WrStoresLegalConfiguration : Prop :=
  ∀ (s : State) (v : Word),
    (-32768 ≤ v.toInt ∧ v.toInt ≤ 32767 →
      exec (.wr 0x10 v) s = .next { s with cfg := { s.cfg with kpQ15 := v }, rsp := some ⟨.ok, 0⟩ }) ∧
    (-32768 ≤ v.toInt ∧ v.toInt ≤ 32767 →
      exec (.wr 0x11 v) s = .next { s with cfg := { s.cfg with kiQ15 := v }, rsp := some ⟨.ok, 0⟩ }) ∧
    exec (.wr 0x12 v) s = .next { s with cfg := { s.cfg with uPerRpm := v }, rsp := some ⟨.ok, 0⟩ } ∧
    (1 ≤ v.toInt → exec (.wr 0x13 v) s = .next { s with cfg := { s.cfg with rpmScale := v }, rsp := some ⟨.ok, 0⟩ }) ∧
    (0 ≤ v.toInt →
      exec (.wr 0x14 v) s = .next { s with cfg := { s.cfg with errDeadbandRpm := v }, rsp := some ⟨.ok, 0⟩ }) ∧
    (0 ≤ v.toInt →
      exec (.wr 0x15 v) s = .next { s with cfg := { s.cfg with intWindowPct := v }, rsp := some ⟨.ok, 0⟩ }) ∧
    (0 ≤ v.toInt →
      exec (.wr 0x16 v) s = .next { s with cfg := { s.cfg with absIntWindowRpm := v }, rsp := some ⟨.ok, 0⟩ }) ∧
    (0 ≤ v.toInt → exec (.wr 0x17 v) s = .next { s with cfg := { s.cfg with iClampQ30 := v }, rsp := some ⟨.ok, 0⟩ }) ∧
    exec (.wr 0x18 v) s = .next { s with cfg := { s.cfg with velWindowMs := v }, rsp := some ⟨.ok, 0⟩ } ∧
    exec (.wr 0x19 v) s = .next { s with cfg := { s.cfg with velIirShift := v }, rsp := some ⟨.ok, 0⟩ } ∧
    (0 ≤ v.toInt → exec (.wr 0x1A v) s = .next { s with cfg := { s.cfg with encoderPpr := v }, rsp := some ⟨.ok, 0⟩ })

/-- 45_register_access.md R236: the patterns each register refuses (the table's last column) are answered `ST_VALUE` and store
nothing; every other pattern is not refused. -/
def Obligations.WrRefusesPatternsOutOfRange : Prop :=
  ∀ (s : State) (addr : Addr) (v : Word),
    addr ∈ [0x00, 0x01, 0x02, 0x03, 0x10, 0x11, 0x12, 0x13, 0x14, 0x15, 0x16, 0x17, 0x18, 0x19, 0x1A, 0x23, 0x24] →
    (s.cmdSrc = .host ∨ (0x10 ≤ addr.toNat ∧ addr.toNat ≤ 0x1A)) →
    let refused : Prop :=
      (addr ∈ [0x10, 0x11] ∧ 0x8000 ≤ v.toNat ∧ v.toNat ≤ 0xFFFF7FFF) ∨
      (addr = 0x13 ∧ (v.toNat = 0 ∨ 0x80000000 ≤ v.toNat)) ∨
      (addr ∈ [0x14, 0x15, 0x16, 0x17, 0x1A] ∧ 0x80000000 ≤ v.toNat) ∨
      (addr ∈ [0x23, 0x24] ∧ 4 ≤ v.toNat)
    (refused → exec (.wr addr v) s = .next { s with rsp := some ⟨.value, 0⟩ }) ∧
    (¬ refused → ∃ t, exec (.wr addr v) s = .next t ∧ t.rsp = some ⟨.ok, 0⟩)

/-- 45_register_access.md R237, 10_state.md R57, 20_memory.md R73: setting and clearing enable lines, one bit at a time and
never another; bits 31:2 must be 0. -/
def Obligations.WrSetsAndClearsEnableLines : Prop :=
  ∀ (s : State) (v : Word), s.cmdSrc = .host → v.toNat < 4 →
    (∃ e : BitVec 2,
      exec (.wr 0x23 v) s = .next { s with out := { s.out with en := e }, rsp := some ⟨.ok, 0⟩ } ∧
      ∀ k < 2, e.getLsbD k = (s.out.en.getLsbD k || v.getLsbD k)) ∧
    (∃ e : BitVec 2,
      exec (.wr 0x24 v) s = .next { s with out := { s.out with en := e }, rsp := some ⟨.ok, 0⟩ } ∧
      ∀ k < 2, e.getLsbD k = (s.out.en.getLsbD k && !v.getLsbD k))

/-- 20_memory.md R65, R67: a register that can be read and written reads as the last value written, and a write to it leaves
what every other register reads as. -/
def Obligations.RdAfterWrReadsTheValue : Prop :=
  ∀ (s t : State) (a b : Addr) (v : Word), s.cmdSrc = .host → a.toNat ≤ 0x1A →
    exec (.wr a v) s = .next t → t.rsp = some ⟨.ok, 0⟩ →
    exec (.rd a) t = .next { t with rsp := some ⟨.ok, v⟩ } ∧
    (b ≠ a → ∃ r, exec (.rd b) s = .next { s with rsp := some r } ∧ exec (.rd b) t = .next { t with rsp := some r })

/-- 20_memory.md R65: "`RD` is idempotent. `WR` to an `RW` register is idempotent. `WR` to `EN_SET` and to `EN_CLR` are
idempotent". -/
def Obligations.RegisterAccessIsIdempotent : Prop :=
  ∀ (s : State) (a : Addr) (v : Word),
    (∃ t, exec (.rd a) s = .next t ∧ exec (.rd a) t = .next t) ∧
    (∃ t, exec (.wr a v) s = .next t ∧ exec (.wr a v) t = .next t)

/-- 45_register_access.md R238: the debug requester's `N`-format commands answer `ST_ACCESS` and do nothing. -/
def Obligations.DebugRequesterRefusedOperations : Prop :=
  ∀ (s : State) (i : Instr), s.cmdSrc = .debug →
    i ∈ [Instr.getMs, .velStep, .piStep, .actuate, .piReset, .velReset] →
    exec i s = .next { s with rsp := some ⟨.access, 0⟩ }

/-- 44_loop_driver.md R210: `GET_MS`, its word and its effect: it puts the tick sample into `NOW` and answers it; from the debug
requester it is refused. -/
def Obligations.GetMsSamplesTick : Prop :=
  encode .getMs = 0x1000000000000000 ∧
  (∀ s : State, s.cmdSrc = .debug → exec .getMs s = .next { s with rsp := some ⟨.access, 0⟩ }) ∧
  ∀ s : State, s.cmdSrc = .host →
    exec .getMs s = .next { s with x := { s.x with now := s.port.tickMs }, rsp := some ⟨.ok, s.port.tickMs⟩ }

/-- 41_velocity_estimator.md R132: the latch path. -/
def Obligations.VelStepLatchesFirstSample : Prop :=
  ∀ s : State, s.cmdSrc = .host → s.vel.prevMs = 0 →
    exec .velStep s = .next
      { s with
        x := { s.x with meas := 0 }
        vel := { s.vel with prevCount := s.port.encCnt, prevMs := s.x.now }
        rsp := some ⟨.ok, 0⟩ }

/-- 41_velocity_estimator.md R134, 70_reset_and_hazards.md R283: a duplicate timestamp returns `vel_filt` and writes no estimator
state. -/
def Obligations.VelStepDuplicateTickKeepsHistory : Prop :=
  ∀ s : State, s.cmdSrc = .host → s.vel.prevMs ≠ 0 →
    ((s.x.now.toNat : Int) - s.vel.prevMs.toNat) % 2 ^ 32 = 0 →
    exec .velStep s = .next { s with x := { s.x with meas := s.vel.velFilt }, rsp := some ⟨.ok, s.vel.velFilt⟩ }

/-- 41_velocity_estimator.md R130, steps 1 to 6 with `delta_ms > 0` (R133 to R136, R138 to R140 in exact integers; the loop of
step 4 is `trim`, which TrimIsTheWhileLoop and TrimLeavesLongestSuffix pin down). Where the sums are not those of the ring, a state
no run reaches, the sums stated are the ones wrapped to 32 bits: the model's choice (log entry 6). -/
def Obligations.VelStepFullStep : Prop :=
  ∀ s : State, s.cmdSrc = .host → s.vel.prevMs ≠ 0 → s.x.now ≠ s.vel.prevMs →
    let deltaMs : Int := ((s.x.now.toNat : Int) - s.vel.prevMs.toNat) % 2 ^ 32
    let deltaCount : Half := BitVec.ofInt 16 (s.port.encCnt.toInt - s.vel.prevCount.toInt)
    let old : Slot := s.vel.slot s.vel.idx
    let new : Slot := { dc := deltaCount, dms := BitVec.ofInt 16 (min deltaMs 65535) }
    let pushed : VelState :=
      { s.vel with
        prevCount := s.port.encCnt
        prevMs := s.x.now
        ring := s.vel.ring.set s.vel.idx.toNat new s.vel.idx.isLt
        sumDeltaCount := BitVec.ofInt 32 (s.vel.sumDeltaCount.toInt - old.dc.toInt + new.dc.toInt)
        sumDeltaMs := BitVec.ofInt 32 (s.vel.sumDeltaMs.toNat - old.dms.toNat + new.dms.toNat)
        idx := BitVec.ofNat 5 ((s.vel.idx.toNat + 1) % 32)
        filled := BitVec.ofNat 6 (min (s.vel.filled.toNat + 1) 32) }
    let v := trim s.cfg.velWindowMs pushed
    let den : Int := 4 * s.cfg.encoderPpr.toInt * v.sumDeltaMs.toNat
    let rpm : Int := max (-(2 ^ 31)) (min (2 ^ 31 - 1) (Int.tdiv (v.sumDeltaCount.toInt * 60000) den))
    let k : Nat := (max 0 (min 8 s.cfg.velIirShift.toInt)).toNat
    let filt : Word :=
      if v.sumDeltaMs = 0 ∨ den = 0 then s.vel.velFilt
      else BitVec.ofInt 32 (s.vel.velFilt.toInt + (rpm - s.vel.velFilt.toInt) / 2 ^ k)
    exec .velStep s = .next
      { s with x := { s.x with meas := filt }, vel := { v with velFilt := filt }, rsp := some ⟨.ok, filt⟩ }

/-- 41_velocity_estimator.md R137: step 4 is the while loop of R130, each pass dropping the slot `(idx − filled) mod 32`: its
sums lose it, it is zeroed, `filled` goes down by 1, nothing else changes. Where the sums are not those of the ring, a state no run
reaches, the sums stated are the ones wrapped to 32 bits: the model's choice (log entry 6). -/
def Obligations.TrimIsTheWhileLoop : Prop :=
  ∀ (window : Word) (v : VelState),
    let o : BitVec 5 := BitVec.ofInt 5 ((v.idx.toNat : Int) - v.filled.toNat)
    trim window v =
      if window.toNat < v.sumDeltaMs.toNat ∧ 1 < v.filled.toNat then
        trim window
          { v with
            sumDeltaCount := BitVec.ofInt 32 (v.sumDeltaCount.toInt - (v.slot o).dc.toInt)
            sumDeltaMs := BitVec.ofInt 32 (v.sumDeltaMs.toNat - (v.slot o).dms.toNat)
            ring := v.ring.set o.toNat { dc := 0, dms := 0 } o.isLt
            filled := BitVec.ofNat 6 (v.filled.toNat - 1) }
      else v

/-- 41_velocity_estimator.md R137, 90_conflicts.md C4: after the loop the active window is the longest run of most-recent samples
whose `dms` total does not exceed the window, or the newest sample alone; `idx` does not change. -/
def Obligations.TrimLeavesLongestSuffix : Prop :=
  ∀ (window : Word) (v : VelState), EstimatorSound v → 1 ≤ v.filled.toNat →
    let t := trim window v
    t.active <:+ v.active ∧ t.active ≠ [] ∧ t.idx = v.idx ∧
    ((t.active.map fun sl => sl.dms.toNat).sum ≤ window.toNat ∨ t.active.length = 1) ∧
    (∀ longer : List Slot, longer <:+ v.active → t.active.length < longer.length →
      window.toNat < (longer.map fun sl => sl.dms.toNat).sum)

/-- 10_state.md R38, third item: after a `VEL_STEP` that takes a sample, `sum_delta_ms ≤ VEL_WINDOW_MS` with the value it
sampled, or `filled = 1`. -/
def Obligations.VelStepRespectsWindow : Prop :=
  ∀ s : State, s.cmdSrc = .host → EstimatorSound s.vel → s.vel.prevMs ≠ 0 → s.x.now ≠ s.vel.prevMs →
    ∃ t, exec .velStep s = .next t ∧
      (t.vel.sumDeltaMs.toNat ≤ s.cfg.velWindowMs.toNat ∨ t.vel.filled = 1)

/-- 41_velocity_estimator.md R139: under the ring invariants `abs(rpm) ≤ 491 520 000`, so the clamp never binds. -/
def Obligations.RpmClampNeverBinds : Prop :=
  ∀ (cfg : Tunables) (v : VelState), EstimatorSound v → 1 ≤ v.filled.toNat → 1 ≤ cfg.encoderPpr.toInt →
    |rpmRaw cfg v| ≤ 491520000 ∧ rpmOf cfg v = rpmRaw cfg v

/-- 41_velocity_estimator.md R140: the new `vel_filt` lies between the old one and `rpm`, and fits its container. -/
def Obligations.SmoothedSpeedLiesBetween : Prop :=
  ∀ (s : State), s.cmdSrc = .host → s.vel.prevMs ≠ 0 → s.x.now ≠ s.vel.prevMs →
    let v := takeSample s.cfg s.x.now s.port.encCnt s.vel
    v.sumDeltaMs ≠ 0 → s.cfg.encoderPpr ≠ 0 →
    ∃ t, exec .velStep s = .next t ∧
      min s.vel.velFilt.toInt (rpmOf s.cfg v) ≤ t.vel.velFilt.toInt ∧
      t.vel.velFilt.toInt ≤ max s.vel.velFilt.toInt (rpmOf s.cfg v) ∧
      (s.cfg.velIirShift.toInt ≤ 0 → t.vel.velFilt.toInt = rpmOf s.cfg v)

/-- 41_velocity_estimator.md R133, 70_reset_and_hazards.md R287 under premise P4, and 43_pi_controller.md R183 under premises P1
and P2: the wrapping differences are the true movement and the true time; with premise P3 the time is also not 0, no duplicate tick
(70_reset_and_hazards.md R284; P3 as log entry 11 reads it); the count aliases modulo `2^16` otherwise. -/
def Obligations.DifferencesAreTrueUnderPremises : Prop :=
  (∀ (before after : Half) (m : Int), TrueMovement before after m → (countDiff after before).toInt = m) ∧
  (∀ (before after : Word) (d : Nat), TrueElapsed before after d → (elapsedMs after before).toNat = d) ∧
  (∀ (before after : Word) (d : Int), FreshTick before after d → d < 2 ^ 32 →
    ((elapsedMs after before).toNat : Int) = d ∧ elapsedMs after before ≠ 0) ∧
  (∀ (before : Half) (m : Int), countDiff (before + BitVec.ofInt 16 m) before = BitVec.ofInt 16 m)

/-- 41_velocity_estimator.md R141: `VEL_RESET`, its word and its effect. -/
def Obligations.VelResetClearsEstimator : Prop :=
  encode .velReset = 0x2100000000000000 ∧
  ∀ s : State, s.cmdSrc = .host →
    exec .velReset s = .next
      { s with
        vel :=
          { prevCount := 0, prevMs := 0, ring := Vector.replicate 32 { dc := 0, dms := 0 }
            sumDeltaCount := 0, sumDeltaMs := 0, idx := 0, filled := 0, velFilt := 0 }
        rsp := some ⟨.ok, 0⟩ }

/-- 43_pi_controller.md R181: the first-call path, whatever `NOW` is. -/
def Obligations.PiStepFirstCallReturnsZero : Prop :=
  ∀ s : State, s.cmdSrc = .host → s.pi.firstCall = true →
    exec .piStep s = .next
      { s with
        x := { s.x with u := 0 }
        pi := { s.pi with firstCall := false, lastMs := s.x.now, uPrev := 0 }
        rsp := some ⟨.ok, 0⟩ }

/-- 43_pi_controller.md R182: a duplicate tick returns `u_prev` and changes no controller state. -/
def Obligations.PiStepDuplicateTickReturnsPrevious : Prop :=
  ∀ s : State, s.cmdSrc = .host → s.pi.firstCall = false → s.x.now = s.pi.lastMs →
    exec .piStep s = .next { s with x := { s.x with u := s.pi.uPrev }, rsp := some ⟨.ok, s.pi.uPrev⟩ }

/-- 43_pi_controller.md R183 to R193: steps 1 to 8, in exact integers. -/
def Obligations.PiStepFullStep : Prop :=
  ∀ s : State, s.cmdSrc = .host → ConfigLegal s.cfg → s.pi.firstCall = false → s.x.now ≠ s.pi.lastMs →
    let ref := s.x.ref.toInt
    let deltaMs : Int := ((s.x.now.toNat : Int) - s.pi.lastMs.toNat) % 2 ^ 32
    let sat : Int → Int := fun x => max (-(2 ^ 30)) (min (2 ^ 30 - 1) x)
    let err0 := ref - s.x.meas.toInt
    let err := if |err0| ≤ s.cfg.errDeadbandRpm.toInt then 0 else err0
    let ff := sat (s.cfg.uPerRpm.toInt * ref)
    let errQ15 := max (-32768) (min 32767 (Int.tdiv (err * 32768) s.cfg.rpmScale.toInt))
    let p := sat (s.cfg.kpQ15.toInt * errQ15)
    let window := max s.cfg.absIntWindowRpm.toInt (Int.tdiv (|ref| * s.cfg.intWindowPct.toInt) 100)
    let i := s.pi.integrator.toInt
    let bound := s.cfg.iClampQ30.toInt
    let iCand :=
      if |err| ≤ window then
        max (-bound) (min bound (sat (i + Int.tdiv (s.cfg.kiQ15.toInt * errQ15 * deltaMs) 1000)))
      else i
    let uCand := ff + p + iCand
    let i' :=
      if -(2 ^ 30) ≤ uCand ∧ uCand ≤ 2 ^ 30 - 1 then iCand
      else if (2 ^ 30 - 1 < uCand ∧ 0 < errQ15) ∨ (uCand < -(2 ^ 30) ∧ errQ15 < 0) then i
      else iCand
    let u := sat (ff + p + i')
    exec .piStep s = .next
      { s with
        x := { s.x with u := BitVec.ofInt 32 u }
        pi :=
          { integrator := BitVec.ofInt 32 i', lastMs := s.x.now, firstCall := false
            uPrev := BitVec.ofInt 32 u }
        rsp := some ⟨.ok, BitVec.ofInt 32 u⟩ }

/-- 43_pi_controller.md R192, the table: commit or hold by the place of `u_cand` and the sign of `err_q15`. -/
def Obligations.AntiWindupCommitTable : Prop :=
  ∀ uCand errQ15 iCand i : Int,
    (2 ^ 30 - 1 < uCand → 0 < errQ15 → piCommit uCand errQ15 iCand i = i) ∧
    (2 ^ 30 - 1 < uCand → errQ15 ≤ 0 → piCommit uCand errQ15 iCand i = iCand) ∧
    (-(2 ^ 30) ≤ uCand → uCand ≤ 2 ^ 30 - 1 → piCommit uCand errQ15 iCand i = iCand) ∧
    (uCand < -(2 ^ 30) → 0 ≤ errQ15 → piCommit uCand errQ15 iCand i = iCand) ∧
    (uCand < -(2 ^ 30) → errQ15 < 0 → piCommit uCand errQ15 iCand i = i)

/-- 43_pi_controller.md R195(a), 90_conflicts.md C6: every result lies in `[CTRL_MIN, CTRL_MAX]`. The premise on `u_prev` is the
invariant 10_state.md R31(d), which SoundnessKeptByEveryStep keeps. -/
def Obligations.PiStepResultInControlRange : Prop :=
  ∀ s : State, s.cmdSrc = .host → InCtrlRange s.pi.uPrev.toInt →
    ∃ t d, exec .piStep s = .next t ∧ t.rsp = some ⟨.ok, d⟩ ∧ t.x.u = d ∧ InCtrlRange d.toInt

/-- 10_state.md R31(b), 90_conflicts.md C12: `PI_STEP` keeps `abs(integrator) ≤ I_CLAMP_Q30`, and a full step that takes the
integrating branch and commits makes it hold: every commit of 43_pi_controller.md R192, that is every cell of its table but the
two that hold. -/
def Obligations.IntegratorStaysWithinClamp : Prop :=
  ∀ s : State, s.cmdSrc = .host → ConfigLegal s.cfg →
    (|s.pi.integrator.toInt| ≤ s.cfg.iClampQ30.toInt →
      ∃ t, exec .piStep s = .next t ∧ |t.pi.integrator.toInt| ≤ s.cfg.iClampQ30.toInt) ∧
    (s.pi.firstCall = false → s.x.now ≠ s.pi.lastMs →
      let err := piErr s.cfg s.x.ref.toInt s.x.meas.toInt
      let q := piErrQ15 s.cfg err
      let w := piWindow s.cfg s.x.ref.toInt
      let iCand := piICand s.cfg err q w (elapsedMs s.x.now s.pi.lastMs) s.pi.integrator.toInt
      let uCand := piFf s.cfg s.x.ref.toInt + piP s.cfg q + iCand
      |err| ≤ w → ¬ (2 ^ 30 - 1 < uCand ∧ 0 < q) → ¬ (uCand < -(2 ^ 30) ∧ q < 0) →
      ∃ t, exec .piStep s = .next t ∧ |t.pi.integrator.toInt| ≤ s.cfg.iClampQ30.toInt)

/-- 43_pi_controller.md R195(e), 90_conflicts.md C14: the proportional-only identity. -/
def Obligations.ProportionalOnlyIdentity : Prop :=
  ∀ s : State, s.cmdSrc = .host → ConfigLegal s.cfg → s.pi.firstCall = false → s.x.now ≠ s.pi.lastMs →
    s.pi.integrator = 0 → s.cfg.kiQ15 = 0 → s.cfg.uPerRpm = 0 → s.cfg.errDeadbandRpm = 0 →
    ∃ t, exec .piStep s = .next t ∧ t.pi.integrator = 0 ∧
      t.x.u = BitVec.ofInt 32 (max (-(2 ^ 30)) (min (2 ^ 30 - 1) (s.cfg.kpQ15.toInt *
        max (-32768) (min 32767
          (Int.tdiv ((s.x.ref.toInt - s.x.meas.toInt) * 32768) s.cfg.rpmScale.toInt)))))

/-- 43_pi_controller.md R196: `PI_RESET`, its word and its effect. -/
def Obligations.PiResetClearsController : Prop :=
  encode .piReset = 0x2000000000000000 ∧
  ∀ s : State, s.cmdSrc = .host →
    exec .piReset s = .next
      { s with pi := { integrator := 0, lastMs := 0, firstCall := true, uPrev := 0 }, rsp := some ⟨.ok, 0⟩ }

/-- 42_actuator_mapper.md R160 to R164 in exact integers. -/
def Obligations.ActuateWritesComparePair : Prop :=
  ∀ s : State, s.cmdSrc = .host →
    let us : Int := max (-(2 ^ 30)) (min (2 ^ 30 - 1) s.x.u.toInt)
    let arr : Int := s.port.pwmArr.toNat
    let duty : Int := min (|us| * (arr + 1) / 2 ^ 30) arr
    exec .actuate s = .next
      { s with
        out :=
          { s.out with
            ccrA := BitVec.ofInt 32 (if us < 0 then duty else 0)
            ccrB := BitVec.ofInt 32 (if 0 < us then duty else 0) }
        rsp := some ⟨.ok, 0⟩ }

/-- 42_actuator_mapper.md R167(a): both compare values are at most the sampled `ARR`, and at least one is zero. -/
def Obligations.ActuateDutyWithinPeriod : Prop :=
  ∀ s : State, s.cmdSrc = .host →
    ∃ t, exec .actuate s = .next t ∧ t.out.ccrA.toNat ≤ s.port.pwmArr.toNat ∧ t.out.ccrB.toNat ≤ s.port.pwmArr.toNat ∧
      (t.out.ccrA = 0 ∨ t.out.ccrB = 0)

/-- 42_actuator_mapper.md R165: the ends of the range: `CTRL_MIN` gives `ARR` on channel A, `CTRL_MAX` gives
`top − ceil(top / 2^30)` on channel B, which is `ARR` for `ARR ≤ 2^30 − 1` and `top − 2`, `top − 3` or `top − 4` above. -/
def Obligations.ActuateEndsOfRange : Prop :=
  ∀ s : State, s.cmdSrc = .host →
    let top : Nat := s.port.pwmArr.toNat + 1
    (s.x.u.toInt ≤ -(2 ^ 30) →
      ∃ t, exec .actuate s = .next t ∧ t.out.ccrA = s.port.pwmArr ∧ t.out.ccrB = 0) ∧
    (2 ^ 30 - 1 ≤ s.x.u.toInt →
      ∃ t, exec .actuate s = .next t ∧ t.out.ccrA = 0 ∧ t.out.ccrB.toNat = top - (top + 1073741823) / 1073741824 ∧
        (s.port.pwmArr.toNat ≤ 2 ^ 30 - 1 → t.out.ccrB = s.port.pwmArr) ∧
        (2 ^ 30 ≤ s.port.pwmArr.toNat → t.out.ccrB.toNat ∈ [top - 2, top - 3, top - 4]))

/-- 42_actuator_mapper.md R167(b), (c), (d): the mapping is odd around zero but for `CTRL_MIN`, and monotonic in the
magnitude. -/
def Obligations.DutySymmetricAndMonotonic : Prop :=
  (∀ u arr : Int, 0 ≤ arr → -(2 ^ 30) < u → u ≤ 2 ^ 30 - 1 →
    comparePair (-u) arr = ((comparePair u arr).2, (comparePair u arr).1)) ∧
  (∀ u₁ u₂ arr : Int, 0 ≤ arr → InCtrlRange u₁ → InCtrlRange u₂ → |u₁| ≤ |u₂| →
    (comparePair u₁ arr).1 + (comparePair u₁ arr).2 ≤ (comparePair u₂ arr).1 + (comparePair u₂ arr).2)

/-- 40_fixed_point_helpers.md R110, R111, R113. -/
def Obligations.HelpersSaturateAsSpecified : Prop :=
  ∀ x : Int,
    (x < -(2 ^ 30) → satCtrl x = -(2 ^ 30)) ∧ (2 ^ 30 - 1 < x → satCtrl x = 2 ^ 30 - 1) ∧
    (-(2 ^ 30) ≤ x → x ≤ 2 ^ 30 - 1 → satCtrl x = x) ∧
    (x < -32768 → clampQ15 x = -32768) ∧ (32767 < x → clampQ15 x = 32767) ∧
    (-32768 ≤ x → x ≤ 32767 → clampQ15 x = x) ∧ absZ x = |x|

/-- 40_fixed_point_helpers.md R117, R119, 00_scope.md R13: division rounds toward zero at all four sign combinations, and the
shift rounds down. -/
def Obligations.DivisionTowardZeroShiftDown : Prop :=
  (∀ a b : Int, b ≠ 0 → divZ a b = a.sign * b.sign * (|a| / |b|)) ∧
  (∀ (v : Int) (k : Nat), asr v k * 2 ^ k ≤ v ∧ v < (asr v k + 1) * 2 ^ k)

/-- 40_fixed_point_helpers.md R122, the table: with the invariants, every intermediate value fits in `i64`. -/
def Obligations.IntermediatesFitInSixtyFourBits : Prop :=
  ∀ s : State, Sound s →
    let c := s.cfg
    let ref := s.x.ref.toInt
    let meas := s.x.meas.toInt
    let err := piErr c ref meas
    let q := piErrQ15 c err
    let dt := elapsedMs s.x.now s.pi.lastMs
    let di := piDi c q dt
    let iCand := piICand c err q (piWindow c ref) dt s.pi.integrator.toInt
    |ref - meas| ≤ 2 ^ 32 - 1 ∧ |c.uPerRpm.toInt * ref| ≤ 2 ^ 62 ∧ |err * 32768| < 2 ^ 47 ∧
    |c.kpQ15.toInt * q| ≤ 2 ^ 30 ∧ |ref| * c.intWindowPct.toInt ≤ 2 ^ 62 ∧
    |c.kiQ15.toInt * q * dt.toNat| < 2 ^ 62 ∧ |s.pi.integrator.toInt + di| < 2 ^ 53 ∧
    |piFf c ref + piP c q + iCand| ≤ 3 * 2 ^ 30 ∧
    |piFf c ref + piP c q + s.pi.integrator.toInt| ≤ 3 * 2 ^ 30 ∧
    |s.port.encCnt.toInt - s.vel.prevCount.toInt| ≤ 2 ^ 16 - 1 ∧
    |s.vel.sumDeltaCount.toInt * 60000| < 2 ^ 36 ∧ 4 * c.encoderPpr.toInt < 2 ^ 33 ∧ 0 ≤ rpmDen c s.vel ∧
    rpmDen c s.vel < 2 ^ 54 ∧ |rpmOf c s.vel - s.vel.velFilt.toInt| ≤ 2 ^ 32 - 1 ∧
    (s.port.pwmArr.toNat : Int) + 1 ≤ 2 ^ 32 ∧
    magOf (satCtrl s.x.u.toInt) * (s.port.pwmArr.toNat + 1) ≤ 2 ^ 62

/-- 10_state.md R59: after reset every piece of state the spec gives a value has it. The port levels, the requester tag, the
`rst` level and the empty inbox are the model's (log entries 2 to 4) and are not stated. -/
def Obligations.ResetGivesListedValues : Prop :=
  State.reset.x = ⟨0, 0, 0, 0⟩ ∧ State.reset.pi = ⟨0, 0, true, 0⟩ ∧
  State.reset.vel.prevCount = 0 ∧ State.reset.vel.prevMs = 0 ∧
  (∀ k : BitVec 5, State.reset.vel.slot k = { dc := 0, dms := 0 }) ∧
  State.reset.vel.sumDeltaCount = 0 ∧ State.reset.vel.sumDeltaMs = 0 ∧ State.reset.vel.idx = 0 ∧
  State.reset.vel.filled = 0 ∧ State.reset.vel.velFilt = 0 ∧
  State.reset.cfg = ⟨0, 0, 0, 4000, 0, 0, 0, 0, 0, 0, 0⟩ ∧ State.reset.out = ⟨0, 0, 0⟩ ∧ State.reset.rsp = none

/-- 70_reset_and_hazards.md R270: hardware reset puts every piece of state of the core at its reset value, whatever command was
in progress; it produces no response, and while `rst` is 1 `cmd_ready` and `rsp_valid` are 0. The input ports are the
environment's. That a reset is one event of the inbox is the model's (log entries 2 and 4). -/
def Obligations.HardwareResetRestoresEverything : Prop :=
  ∀ (s : State) (port : InPorts) (inProgress : Option Presented) (rest : List Event),
    s.inbox = .reset port inProgress :: rest →
    ∃ t, step s = .next t ∧ t.x = State.reset.x ∧ t.pi = State.reset.pi ∧ t.vel = State.reset.vel ∧
      t.cfg = State.reset.cfg ∧ t.out = State.reset.out ∧ t.port = port ∧ t.inbox = rest ∧
      t.cmdReady = false ∧ t.rspValid = false

/-- 60_exceptions.md R255, R263: a port change causes nothing, and the core keeps all state between commands. That a moment
without a command is an event that carries port levels, or an empty inbox, is the model's choice (log entries 2 and 3). So is the
clause that `cmd_ready` is 1 after an idle moment: 30_encoding.md R93 and 70_reset_and_hazards.md R270 give the port, but that the
level of `rst` is held in the state and is back at 0 with the next event is log entry 4. -/
def Obligations.PortChangeCausesNothing : Prop :=
  (∀ (s : State) (port : InPorts) (rest : List Event), s.inbox = .idle port :: rest →
    ∃ t, step s = .next t ∧ t.x = s.x ∧ t.pi = s.pi ∧ t.vel = s.vel ∧ t.cfg = s.cfg ∧ t.out = s.out ∧ t.port = port ∧
      t.cmdReady = true) ∧
  (∀ s : State, s.inbox = [] →
    ∃ t, step s = .next t ∧ t.x = s.x ∧ t.pi = s.pi ∧ t.vel = s.vel ∧ t.cfg = s.cfg ∧ t.out = s.out)

/-- 10_state.md R31(a), (d), R38, R40: legal configuration, controller and estimator sound: an invariant that every step of the
machine keeps, from every state that has it. -/
def Obligations.SoundnessKeptByEveryStep : Prop :=
  ∀ s t : State, Sound s → step s = .next t → Sound t

/-- 10_state.md R31, R38: the invariant holds after reset. -/
def Obligations.SoundnessHoldsAtReset : Prop := Sound State.reset

/-- 10_state.md R55, 20_memory.md R69: only `ACTUATE` of the host and hardware reset change a compare register. -/
def Obligations.CompareRegistersOnlyByActuate : Prop :=
  ∀ s t : State, step s = .next t → (t.out.ccrA ≠ s.out.ccrA ∨ t.out.ccrB ≠ s.out.ccrB) →
    (∃ c rest, s.inbox = .command c :: rest ∧ c.src = .host ∧ c.word = 0x1300000000000000) ∨
    (∃ port inProgress rest, s.inbox = .reset port inProgress :: rest)

/-- 10_state.md R56, 45_register_access.md R237: only a host `WR` to `EN_SET` or `EN_CLR` and hardware reset change `EN`. -/
def Obligations.EnableLinesOnlyBySetAndClear : Prop :=
  ∀ s t : State, step s = .next t → t.out.en ≠ s.out.en →
    (∃ c rest, s.inbox = .command c :: rest ∧ c.src = .host ∧ c.word.extractLsb' 56 8 = 0x02 ∧
      c.word.extractLsb' 48 8 ∈ [0x23, 0x24]) ∨
    (∃ port inProgress rest, s.inbox = .reset port inProgress :: rest)

/-- 10_state.md sections 4 and 5, 20_memory.md R69: only `PI_STEP` and `PI_RESET` of the host change controller state, only
`VEL_STEP` and `VEL_RESET` estimator state, and hardware reset either. -/
def Obligations.PrivateStateOnlyByItsOwner : Prop :=
  ∀ s t : State, step s = .next t →
    (t.pi ≠ s.pi →
      (∃ c rest, s.inbox = .command c :: rest ∧ c.src = .host ∧
        c.word ∈ [0x1200000000000000, 0x2000000000000000]) ∨
      (∃ port inProgress rest, s.inbox = .reset port inProgress :: rest)) ∧
    (t.vel ≠ s.vel →
      (∃ c rest, s.inbox = .command c :: rest ∧ c.src = .host ∧
        c.word ∈ [0x1100000000000000, 0x2100000000000000]) ∨
      (∃ port inProgress rest, s.inbox = .reset port inProgress :: rest))

/-- 60_exceptions.md R258, 45_register_access.md R238: a command of the debug requester changes nothing but configuration
registers, and those only by a `WR` to 0x10 .. 0x1A. -/
def Obligations.DebugRequesterChangesOnlyConfiguration : Prop :=
  ∀ (s t : State) (c : Presented) (rest : List Event), s.inbox = .command c :: rest → c.src = .debug →
    step s = .next t →
    t.x = s.x ∧ t.pi = s.pi ∧ t.vel = s.vel ∧ t.out = s.out ∧
    (t.cfg ≠ s.cfg → c.word.extractLsb' 56 8 = 0x02 ∧ 0x10 ≤ (c.word.extractLsb' 48 8).toNat ∧
      (c.word.extractLsb' 48 8).toNat ≤ 0x1A)

/-- 10_state.md R58: estimator and controller state "are state a host can observe only through the results of `VEL_STEP` and
`PI_STEP`". Two states that differ in private state alone stay so under every event but a `VEL_STEP` or `PI_STEP`, and under
those too when the owner's own private state is the same in both. -/
def Obligations.PrivateStateUnobservable : Prop :=
  ∀ s s' : State, SamePublic s s' →
    (∀ c rest, s.inbox = .command c :: rest → c.word = 0x1100000000000000 → s.vel = s'.vel) →
    (∀ c rest, s.inbox = .command c :: rest → c.word = 0x1200000000000000 → s.pi = s'.pi) →
    ∃ t t', step s = .next t ∧ step s' = .next t' ∧ SamePublic t t' ∧
      (s.pi = s'.pi → t.pi = t'.pi) ∧ (s.vel = s'.vel → t.vel = t'.vel)

/-- 70_reset_and_hazards.md R272: with the reset configuration, no speed is measured, no control value is formed, and no motor
output is commanded. -/
def Obligations.UnconfiguredCoreCommandsNothing : Prop :=
  ∀ s : State, s.cmdSrc = .host → s.cfg = State.reset.cfg → s.pi.integrator = 0 → s.pi.uPrev = 0 → s.vel.velFilt = 0 →
    (∃ t, exec .velStep s = .next t ∧ t.x.meas = 0 ∧ t.vel.velFilt = 0) ∧
    (∃ t, exec .piStep s = .next t ∧ t.x.u = 0 ∧ t.pi.integrator = 0 ∧ t.pi.uPrev = 0) ∧
    (s.x.u = 0 → ∃ t, exec .actuate s = .next t ∧ t.out.ccrA = 0 ∧ t.out.ccrB = 0)

/-- 41_velocity_estimator.md R143(a), (b), 70_reset_and_hazards.md R281: a call at `NOW = 0` leaves the estimator uninitialised:
the next call, whatever its time, its counter sample and the registers are by then, returns 0, latches them and keeps the filter,
the ring and the sums. -/
def Obligations.ZeroTimestampUninitialises : Prop :=
  ∀ s : State, s.cmdSrc = .host → s.x.now = 0 →
    ∃ t, exec .velStep s = .next t ∧ t.vel.prevMs = 0 ∧
      ∀ s' : State, s'.cmdSrc = .host → s'.vel = t.vel →
        exec .velStep s' = .next
          { s' with
            x := { s'.x with meas := 0 }
            vel := { t.vel with prevCount := s'.port.encCnt, prevMs := s'.x.now }
            rsp := some ⟨.ok, 0⟩ }

/-- 70_reset_and_hazards.md R286, premise P3 broken: a timestamp `g` milliseconds earlier than the stored one is taken as an elapsed
time of `2^32 − g`, by either operation; in `VEL_STEP`, while that time is at least the cap and the window is below it, the sample
enters the ring with `dms = 65535` and every older sample is dropped. -/
def Obligations.BackwardStepActsAsLongTime : Prop :=
  (∀ (before after : Word) (g : Int), BackwardStep before after g →
    ((elapsedMs after before).toNat : Int) = 2 ^ 32 - g) ∧
  (∀ (s : State) (g : Int), s.cmdSrc = .host → EstimatorSound s.vel → s.vel.prevMs ≠ 0 →
    BackwardStep s.vel.prevMs s.x.now g → g ≤ 2 ^ 32 - 65535 → s.cfg.velWindowMs.toNat < 65535 →
    ∃ t, exec .velStep s = .next t ∧
      t.vel.active = [{ dc := BitVec.ofInt 16 (s.port.encCnt.toInt - s.vel.prevCount.toInt), dms := 65535 }] ∧
      t.vel.filled = 1 ∧ t.vel.sumDeltaMs = 65535)
end

