-- ==== Sys2Proof/Laws/FixedPoint.lean ====
section
/-! SUPPORT. What the fixed-point helpers compute, in the form proofs use them. -/

namespace Sys2Proof.Machine

theorem clamp_eq_max_min (x lo hi : Int) (h : lo ≤ hi) : clamp x lo hi = max lo (min hi x) := by
  unfold clamp; split_ifs <;> omega

theorem clamp_mem (x lo hi : Int) (h : lo ≤ hi) : lo ≤ clamp x lo hi ∧ clamp x lo hi ≤ hi := by
  unfold clamp; split_ifs <;> omega

theorem clamp_of_mem (x lo hi : Int) (h : lo ≤ x) (h' : x ≤ hi) : clamp x lo hi = x := by
  unfold clamp; split_ifs <;> omega

theorem satCtrl_eq_max_min (x : Int) : satCtrl x = max (-1073741824) (min 1073741823 x) :=
  clamp_eq_max_min x _ _ (by decide)

theorem clampQ15_eq_max_min (x : Int) : clampQ15 x = max (-32768) (min 32767 x) :=
  clamp_eq_max_min x _ _ (by decide)

/-- A value of the signed 32-bit range is read back from its pattern. -/
theorem bits32_toInt (x : Int) (h : -2147483648 ≤ x) (h' : x ≤ 2147483647) : (bits32 x).toInt = x := by
  rw [bits32, BitVec.toInt_ofInt, Int.bmod_eq_of_le] <;> norm_num <;> omega

/-- A value of the unsigned 32-bit range is read back from its pattern. -/
theorem bits32_toNat (x : Int) (h : 0 ≤ x) (h' : x ≤ 4294967295) : ((bits32 x).toNat : Int) = x := by
  rw [bits32, BitVec.toNat_ofInt]; omega

theorem elapsedMs_toNat (now since : Word) :
    ((elapsedMs now since).toNat : Int) = ((now.toNat : Int) - since.toNat) % 2 ^ 32 := by
  simp only [elapsedMs, BitVec.toNat_sub]; omega

theorem elapsedMs_eq_zero (now since : Word) : elapsedMs now since = 0 ↔ now = since := by
  simp only [elapsedMs]; exact sub_eq_zero

/-- The shift moves a value toward 0 or not at all, never past 0 from above and never below its start. -/
theorem asr_mem (d : Int) (k : Nat) : min 0 d ≤ asr d k ∧ asr d k ≤ max 0 d := by
  unfold asr
  have hp : (0 : Int) < 2 ^ k := by positivity
  constructor
  · rw [Int.le_ediv_iff_mul_le hp]
    rcases le_total 0 d with h | h
    · simp [h]
    · rw [min_eq_right h]; nlinarith
  · have := Int.ediv_mul_le d (ne_of_gt hp)
    rcases le_total 0 d with h | h
    · rw [max_eq_right h]; nlinarith [Int.ediv_nonneg h hp.le]
    · rw [max_eq_left h]; by_contra hc; rw [not_le] at hc; nlinarith

end Sys2Proof.Machine
end

