-- ==== Sys2Proof/Laws/Controller.lean ====
section
/-! SUPPORT. The bounds of the controller's terms and the three paths of an invocation. -/

namespace Sys2Proof.Machine

theorem satCtrl_mem (x : Int) : -1073741824 ≤ satCtrl x ∧ satCtrl x ≤ 1073741823 :=
  clamp_mem x _ _ (by decide)

theorem piErrQ15_mem (cfg : Tunables) (err : Int) : -32768 ≤ piErrQ15 cfg err ∧ piErrQ15 cfg err ≤ 32767 :=
  clamp_mem _ _ _ (by decide)

theorem absZ_eq_abs (x : Int) : absZ x = |x| := by
  unfold absZ; split_ifs with h
  · rw [abs_of_neg h]
  · rw [abs_of_nonneg (not_lt.1 h)]

/-- The candidate is the old integrator or lies within the clamp and the control range. -/
theorem piICand_cases (cfg : Tunables) (err errQ15 window : Int) (deltaMs : Word) (integrator : Int)
    (h : 0 ≤ cfg.iClampQ30.toInt) :
    (window < |err| ∧ piICand cfg err errQ15 window deltaMs integrator = integrator) ∨
    (|err| ≤ window ∧ |piICand cfg err errQ15 window deltaMs integrator| ≤ cfg.iClampQ30.toInt ∧
      -1073741824 ≤ piICand cfg err errQ15 window deltaMs integrator ∧
      piICand cfg err errQ15 window deltaMs integrator ≤ 1073741823) := by
  unfold piICand
  rw [absZ_eq_abs]
  split
  · rename_i hw
    have hs := satCtrl_mem (integrator + piDi cfg errQ15 deltaMs)
    rw [clamp_eq_max_min _ _ _ (by omega)]
    exact .inr ⟨hw, abs_le.2 ⟨by omega, by omega⟩, by omega, by omega⟩
  · exact .inl ⟨by omega, rfl⟩

/-- The committed integrator is the candidate or the old one. -/
theorem piCommit_cases (uCand errQ15 iCand integrator : Int) :
    piCommit uCand errQ15 iCand integrator = iCand ∨ piCommit uCand errQ15 iCand integrator = integrator := by
  unfold piCommit; split_ifs <;> simp

/-- The three paths of an invocation. -/
theorem piControl_cases (cfg : Tunables) (ref meas now : Word) (p : PiState) :
    (p.firstCall = true ∧ piControl cfg ref meas now p = ({ p with firstCall := false, lastMs := now, uPrev := 0 }, 0)) ∨
    (p.firstCall = false ∧ now = p.lastMs ∧ piControl cfg ref meas now p = (p, p.uPrev)) ∨
    (p.firstCall = false ∧ now ≠ p.lastMs ∧
      piControl cfg ref meas now p =
        let r := piFull cfg ref.toInt meas.toInt (elapsedMs now p.lastMs) p.integrator.toInt
        ({ p with integrator := bits32 r.1, lastMs := now, uPrev := bits32 r.2 }, bits32 r.2)) := by
  cases hf : p.firstCall
  · by_cases h : now = p.lastMs
    · refine .inr (.inl ⟨rfl, h, ?_⟩)
      have := (elapsedMs_eq_zero now p.lastMs).2 h
      simp [piControl, PiState.uninitialized, hf, this]
    · refine .inr (.inr ⟨rfl, h, ?_⟩)
      have : ¬ elapsedMs now p.lastMs = 0 := fun e => h ((elapsedMs_eq_zero now p.lastMs).1 e)
      simp only [piControl, PiState.uninitialized, hf, this, if_false, Bool.false_eq_true]
  · exact .inl ⟨rfl, by simp [piControl, PiState.uninitialized, hf]⟩

end Sys2Proof.Machine
end

