-- ==== Sys2Proof/Laws/State.lean ====
section
/-! SUPPORT. What each shared update leaves in each field, one lemma per field, so that no proof unfolds a record update. -/

namespace Sys2Proof.Machine

/-! `respond` -/

@[simp] theorem respond_x (s : State) (status : Status) (data : Word) :
    (respond s status data).x = s.x := rfl

@[simp] theorem respond_pi (s : State) (status : Status) (data : Word) :
    (respond s status data).pi = s.pi := rfl

@[simp] theorem respond_vel (s : State) (status : Status) (data : Word) :
    (respond s status data).vel = s.vel := rfl

@[simp] theorem respond_cfg (s : State) (status : Status) (data : Word) :
    (respond s status data).cfg = s.cfg := rfl

@[simp] theorem respond_out (s : State) (status : Status) (data : Word) :
    (respond s status data).out = s.out := rfl

@[simp] theorem respond_port (s : State) (status : Status) (data : Word) :
    (respond s status data).port = s.port := rfl

@[simp] theorem respond_cmdSrc (s : State) (status : Status) (data : Word) :
    (respond s status data).cmdSrc = s.cmdSrc := rfl

@[simp] theorem respond_rst (s : State) (status : Status) (data : Word) :
    (respond s status data).rst = s.rst := rfl

@[simp] theorem respond_rsp (s : State) (status : Status) (data : Word) :
    (respond s status data).rsp = some ⟨status, data⟩ := rfl

@[simp] theorem respond_inbox (s : State) (status : Status) (data : Word) :
    (respond s status data).inbox = s.inbox := rfl

/-! `cmdError` -/

@[simp] theorem cmdError_x (s : State) (code : Status) :
    (cmdError s code).x = s.x := rfl

@[simp] theorem cmdError_pi (s : State) (code : Status) :
    (cmdError s code).pi = s.pi := rfl

@[simp] theorem cmdError_vel (s : State) (code : Status) :
    (cmdError s code).vel = s.vel := rfl

@[simp] theorem cmdError_cfg (s : State) (code : Status) :
    (cmdError s code).cfg = s.cfg := rfl

@[simp] theorem cmdError_out (s : State) (code : Status) :
    (cmdError s code).out = s.out := rfl

@[simp] theorem cmdError_port (s : State) (code : Status) :
    (cmdError s code).port = s.port := rfl

@[simp] theorem cmdError_cmdSrc (s : State) (code : Status) :
    (cmdError s code).cmdSrc = s.cmdSrc := rfl

@[simp] theorem cmdError_rst (s : State) (code : Status) :
    (cmdError s code).rst = s.rst := rfl

@[simp] theorem cmdError_rsp (s : State) (code : Status) :
    (cmdError s code).rsp = some ⟨code, 0⟩ := rfl

@[simp] theorem cmdError_inbox (s : State) (code : Status) :
    (cmdError s code).inbox = s.inbox := rfl

/-! `accept` -/

@[simp] theorem accept_x (s : State) (c : Presented) (rest : List Event) :
    (accept s c rest).x = s.x := rfl

@[simp] theorem accept_pi (s : State) (c : Presented) (rest : List Event) :
    (accept s c rest).pi = s.pi := rfl

@[simp] theorem accept_vel (s : State) (c : Presented) (rest : List Event) :
    (accept s c rest).vel = s.vel := rfl

@[simp] theorem accept_cfg (s : State) (c : Presented) (rest : List Event) :
    (accept s c rest).cfg = s.cfg := rfl

@[simp] theorem accept_out (s : State) (c : Presented) (rest : List Event) :
    (accept s c rest).out = s.out := rfl

@[simp] theorem accept_port (s : State) (c : Presented) (rest : List Event) :
    (accept s c rest).port = c.port := rfl

@[simp] theorem accept_cmdSrc (s : State) (c : Presented) (rest : List Event) :
    (accept s c rest).cmdSrc = c.src := rfl

@[simp] theorem accept_rst (s : State) (c : Presented) (rest : List Event) :
    (accept s c rest).rst = false := rfl

@[simp] theorem accept_rsp (s : State) (c : Presented) (rest : List Event) :
    (accept s c rest).rsp = none := rfl

@[simp] theorem accept_inbox (s : State) (c : Presented) (rest : List Event) :
    (accept s c rest).inbox = rest := rfl

/-! `idleAt` -/

@[simp] theorem idleAt_x (s : State) (port : InPorts) (rest : List Event) :
    (idleAt s port rest).x = s.x := rfl

@[simp] theorem idleAt_pi (s : State) (port : InPorts) (rest : List Event) :
    (idleAt s port rest).pi = s.pi := rfl

@[simp] theorem idleAt_vel (s : State) (port : InPorts) (rest : List Event) :
    (idleAt s port rest).vel = s.vel := rfl

@[simp] theorem idleAt_cfg (s : State) (port : InPorts) (rest : List Event) :
    (idleAt s port rest).cfg = s.cfg := rfl

@[simp] theorem idleAt_out (s : State) (port : InPorts) (rest : List Event) :
    (idleAt s port rest).out = s.out := rfl

@[simp] theorem idleAt_port (s : State) (port : InPorts) (rest : List Event) :
    (idleAt s port rest).port = port := rfl

@[simp] theorem idleAt_cmdSrc (s : State) (port : InPorts) (rest : List Event) :
    (idleAt s port rest).cmdSrc = s.cmdSrc := rfl

@[simp] theorem idleAt_rst (s : State) (port : InPorts) (rest : List Event) :
    (idleAt s port rest).rst = false := rfl

@[simp] theorem idleAt_rsp (s : State) (port : InPorts) (rest : List Event) :
    (idleAt s port rest).rsp = none := rfl

@[simp] theorem idleAt_inbox (s : State) (port : InPorts) (rest : List Event) :
    (idleAt s port rest).inbox = rest := rfl

/-! `waitIdle` -/

@[simp] theorem waitIdle_x (s : State) :
    (waitIdle s).x = s.x := rfl

@[simp] theorem waitIdle_pi (s : State) :
    (waitIdle s).pi = s.pi := rfl

@[simp] theorem waitIdle_vel (s : State) :
    (waitIdle s).vel = s.vel := rfl

@[simp] theorem waitIdle_cfg (s : State) :
    (waitIdle s).cfg = s.cfg := rfl

@[simp] theorem waitIdle_out (s : State) :
    (waitIdle s).out = s.out := rfl

@[simp] theorem waitIdle_port (s : State) :
    (waitIdle s).port = s.port := rfl

@[simp] theorem waitIdle_cmdSrc (s : State) :
    (waitIdle s).cmdSrc = s.cmdSrc := rfl

@[simp] theorem waitIdle_rst (s : State) :
    (waitIdle s).rst = s.rst := rfl

@[simp] theorem waitIdle_rsp (s : State) :
    (waitIdle s).rsp = none := rfl

@[simp] theorem waitIdle_inbox (s : State) :
    (waitIdle s).inbox = s.inbox := rfl

/-! `hardReset` -/

@[simp] theorem hardReset_x (s : State) (port : InPorts) (rest : List Event) :
    (hardReset s port rest).x = OperandRegs.reset := rfl

@[simp] theorem hardReset_pi (s : State) (port : InPorts) (rest : List Event) :
    (hardReset s port rest).pi = PiState.reset := rfl

@[simp] theorem hardReset_vel (s : State) (port : InPorts) (rest : List Event) :
    (hardReset s port rest).vel = VelState.reset := rfl

@[simp] theorem hardReset_cfg (s : State) (port : InPorts) (rest : List Event) :
    (hardReset s port rest).cfg = Tunables.reset := rfl

@[simp] theorem hardReset_out (s : State) (port : InPorts) (rest : List Event) :
    (hardReset s port rest).out = Outputs.reset := rfl

@[simp] theorem hardReset_port (s : State) (port : InPorts) (rest : List Event) :
    (hardReset s port rest).port = port := rfl

@[simp] theorem hardReset_cmdSrc (s : State) (port : InPorts) (rest : List Event) :
    (hardReset s port rest).cmdSrc = s.cmdSrc := rfl

@[simp] theorem hardReset_rst (s : State) (port : InPorts) (rest : List Event) :
    (hardReset s port rest).rst = true := rfl

@[simp] theorem hardReset_rsp (s : State) (port : InPorts) (rest : List Event) :
    (hardReset s port rest).rsp = none := rfl

@[simp] theorem hardReset_inbox (s : State) (port : InPorts) (rest : List Event) :
    (hardReset s port rest).inbox = rest := rfl

/-! `presentFirst` -/

@[simp] theorem presentFirst_x (s : State) (w : CmdWord) :
    (presentFirst s w).x = s.x := rfl

@[simp] theorem presentFirst_pi (s : State) (w : CmdWord) :
    (presentFirst s w).pi = s.pi := rfl

@[simp] theorem presentFirst_vel (s : State) (w : CmdWord) :
    (presentFirst s w).vel = s.vel := rfl

@[simp] theorem presentFirst_cfg (s : State) (w : CmdWord) :
    (presentFirst s w).cfg = s.cfg := rfl

@[simp] theorem presentFirst_out (s : State) (w : CmdWord) :
    (presentFirst s w).out = s.out := rfl

@[simp] theorem presentFirst_port (s : State) (w : CmdWord) :
    (presentFirst s w).port = s.port := rfl

@[simp] theorem presentFirst_cmdSrc (s : State) (w : CmdWord) :
    (presentFirst s w).cmdSrc = s.cmdSrc := rfl

@[simp] theorem presentFirst_rst (s : State) (w : CmdWord) :
    (presentFirst s w).rst = s.rst := rfl

@[simp] theorem presentFirst_rsp (s : State) (w : CmdWord) :
    (presentFirst s w).rsp = s.rsp := rfl

@[simp] theorem presentFirst_inbox (s : State) (w : CmdWord) :
    (presentFirst s w).inbox = .command { src := .host, word := w, port := s.port } :: s.inbox := rfl

/-! `replaceSlot` -/

@[simp] theorem replaceSlot_prevCount (v : VelState) (i : BitVec 5) (new : Slot) :
    (v.replaceSlot i new).prevCount = v.prevCount := rfl

@[simp] theorem replaceSlot_prevMs (v : VelState) (i : BitVec 5) (new : Slot) :
    (v.replaceSlot i new).prevMs = v.prevMs := rfl

@[simp] theorem replaceSlot_ring (v : VelState) (i : BitVec 5) (new : Slot) :
    (v.replaceSlot i new).ring = v.ring.set i.toNat new i.isLt := rfl

@[simp] theorem replaceSlot_sumDeltaCount (v : VelState) (i : BitVec 5) (new : Slot) :
    (v.replaceSlot i new).sumDeltaCount = v.sumDeltaCount - (v.slot i).dc.signExtend 32 + new.dc.signExtend 32 := rfl

@[simp] theorem replaceSlot_sumDeltaMs (v : VelState) (i : BitVec 5) (new : Slot) :
    (v.replaceSlot i new).sumDeltaMs = v.sumDeltaMs - (v.slot i).dms.setWidth 32 + new.dms.setWidth 32 := rfl

@[simp] theorem replaceSlot_idx (v : VelState) (i : BitVec 5) (new : Slot) :
    (v.replaceSlot i new).idx = v.idx := rfl

@[simp] theorem replaceSlot_filled (v : VelState) (i : BitVec 5) (new : Slot) :
    (v.replaceSlot i new).filled = v.filled := rfl

@[simp] theorem replaceSlot_velFilt (v : VelState) (i : BitVec 5) (new : Slot) :
    (v.replaceSlot i new).velFilt = v.velFilt := rfl

/-! `pushSample` -/

@[simp] theorem pushSample_prevCount (v : VelState) (sample : Slot) :
    (pushSample v sample).prevCount = v.prevCount := rfl

@[simp] theorem pushSample_prevMs (v : VelState) (sample : Slot) :
    (pushSample v sample).prevMs = v.prevMs := rfl

@[simp] theorem pushSample_ring (v : VelState) (sample : Slot) :
    (pushSample v sample).ring = v.ring.set v.idx.toNat sample v.idx.isLt := rfl

@[simp] theorem pushSample_sumDeltaCount (v : VelState) (sample : Slot) :
    (pushSample v sample).sumDeltaCount = v.sumDeltaCount - (v.slot v.idx).dc.signExtend 32 + sample.dc.signExtend 32 := rfl

@[simp] theorem pushSample_sumDeltaMs (v : VelState) (sample : Slot) :
    (pushSample v sample).sumDeltaMs = v.sumDeltaMs - (v.slot v.idx).dms.setWidth 32 + sample.dms.setWidth 32 := rfl

@[simp] theorem pushSample_idx (v : VelState) (sample : Slot) :
    (pushSample v sample).idx = v.idx + 1 := rfl

@[simp] theorem pushSample_filled (v : VelState) (sample : Slot) :
    (pushSample v sample).filled = BitVec.ofNat 6 (min (v.filled.toNat + 1) 32) := rfl

@[simp] theorem pushSample_velFilt (v : VelState) (sample : Slot) :
    (pushSample v sample).velFilt = v.velFilt := rfl

/-! `dropOldest` -/

@[simp] theorem dropOldest_prevCount (v : VelState) :
    (dropOldest v).prevCount = v.prevCount := rfl

@[simp] theorem dropOldest_prevMs (v : VelState) :
    (dropOldest v).prevMs = v.prevMs := rfl

@[simp] theorem dropOldest_ring (v : VelState) :
    (dropOldest v).ring = v.ring.set v.oldest.toNat { dc := 0, dms := 0 } v.oldest.isLt := rfl

@[simp] theorem dropOldest_sumDeltaCount (v : VelState) :
    (dropOldest v).sumDeltaCount = v.sumDeltaCount - (v.slot v.oldest).dc.signExtend 32 + (0 : Half).signExtend 32 := rfl

@[simp] theorem dropOldest_sumDeltaMs (v : VelState) :
    (dropOldest v).sumDeltaMs = v.sumDeltaMs - (v.slot v.oldest).dms.setWidth 32 + (0 : Half).setWidth 32 := rfl

@[simp] theorem dropOldest_idx (v : VelState) :
    (dropOldest v).idx = v.idx := rfl

@[simp] theorem dropOldest_filled (v : VelState) :
    (dropOldest v).filled = v.filled - 1 := rfl

@[simp] theorem dropOldest_velFilt (v : VelState) :
    (dropOldest v).velFilt = v.velFilt := rfl

end Sys2Proof.Machine
end

