-- ==== Sys2Proof/Laws/Estimator.lean ====
section
/-! SUPPORT. The ring of the estimator: what replacing, pushing and dropping a slot do, and what the trim loop leaves alone. -/

namespace Sys2Proof.Machine

theorem slot_replaceSlot (v : VelState) (i j : BitVec 5) (new : Slot) :
    (v.replaceSlot i new).slot j = if i = j then new else v.slot j := by
  simp only [VelState.replaceSlot, VelState.slot, Vector.getElem_set, BitVec.toNat_inj]

theorem slot_pushSample (v : VelState) (sample : Slot) (j : BitVec 5) :
    (pushSample v sample).slot j = if v.idx = j then sample else v.slot j :=
  slot_replaceSlot v v.idx j sample

theorem slot_dropOldest (v : VelState) (j : BitVec 5) :
    (dropOldest v).slot j = if v.oldest = j then { dc := 0, dms := 0 } else v.slot j :=
  slot_replaceSlot v v.oldest j _

theorem pushSample_filled_toNat (v : VelState) (sample : Slot) :
    (pushSample v sample).filled.toNat = min (v.filled.toNat + 1) 32 := by
  simp only [pushSample_filled, BitVec.toNat_ofNat]; omega

theorem dropOldest_filled_toNat (v : VelState) (n : Nat) (h : v.filled.toNat = n + 1) :
    (dropOldest v).filled.toNat = n := by
  have := v.filled.isLt
  simp only [dropOldest_filled, BitVec.toNat_sub, h]; simp; omega

theorem needsTrim_iff (window : Word) (v : VelState) :
    needsTrim window v = true ↔ window.toNat < v.sumDeltaMs.toNat ∧ 1 < v.filled.toNat := by
  simp [needsTrim]

theorem trimLoop_of_not_needsTrim (window : Word) (passes : Nat) (v : VelState) (h : needsTrim window v = false) :
    trimLoop window passes v = v := by
  cases passes <;> simp [trimLoop, h]

/-- The loop changes neither the previous sample nor the write position nor the filter. -/
theorem trimLoop_frame (window : Word) (passes : Nat) (v : VelState) :
    (trimLoop window passes v).prevCount = v.prevCount ∧ (trimLoop window passes v).prevMs = v.prevMs ∧
      (trimLoop window passes v).idx = v.idx ∧ (trimLoop window passes v).velFilt = v.velFilt := by
  induction passes generalizing v with
  | zero => exact ⟨rfl, rfl, rfl, rfl⟩
  | succ n ih =>
    unfold trimLoop
    split
    · simpa using ih (dropOldest v)
    · exact ⟨rfl, rfl, rfl, rfl⟩

theorem takeSample_frame (cfg : Tunables) (now : Word) (cnt : Half) (v : VelState) :
    (takeSample cfg now cnt v).prevCount = cnt ∧ (takeSample cfg now cnt v).prevMs = now ∧
      (takeSample cfg now cnt v).idx = v.idx + 1 ∧ (takeSample cfg now cnt v).velFilt = v.velFilt := by
  simpa [takeSample, trim] using trimLoop_frame cfg.velWindowMs _ (pushSample { v with prevCount := cnt, prevMs := now } _)

/-- Steps 5 and 6 change the filter alone. -/
theorem updateFilter_eq (cfg : Tunables) (v : VelState) :
    updateFilter cfg v =
      { v with
        velFilt :=
          if v.sumDeltaMs = 0 ∨ rpmDen cfg v = 0 then v.velFilt
          else bits32 (smooth v.velFilt.toInt (rpmOf cfg v) (iirShift cfg)) } := by
  unfold updateFilter
  by_cases h : v.sumDeltaMs = 0
  · rw [if_pos h, if_pos (.inl h)]
  · by_cases h' : rpmDen cfg v = 0
    · rw [if_neg h, if_pos h', if_pos (.inr h')]
    · rw [if_neg h, if_neg h', if_neg (not_or.2 ⟨h, h'⟩)]

/-- The three paths of an invocation. -/
theorem velEstimate_cases (cfg : Tunables) (now : Word) (cnt : Half) (v : VelState) :
    (v.prevMs = 0 ∧ velEstimate cfg now cnt v = ({ v with prevCount := cnt, prevMs := now }, 0)) ∨
    (v.prevMs ≠ 0 ∧ now = v.prevMs ∧ velEstimate cfg now cnt v = (v, v.velFilt)) ∨
    (v.prevMs ≠ 0 ∧ now ≠ v.prevMs ∧
      velEstimate cfg now cnt v =
        (updateFilter cfg (takeSample cfg now cnt v), (updateFilter cfg (takeSample cfg now cnt v)).velFilt)) := by
  by_cases h : v.prevMs = 0
  · exact .inl ⟨h, by simp [velEstimate, VelState.uninitialized, h]⟩
  · by_cases h' : now = v.prevMs
    · refine .inr (.inl ⟨h, h', ?_⟩)
      have := (elapsedMs_eq_zero now v.prevMs).2 h'
      simp only [velEstimate, VelState.uninitialized, beq_iff_eq, h, this, if_false, if_true]
    · refine .inr (.inr ⟨h, h', ?_⟩)
      have : ¬ elapsedMs now v.prevMs = 0 := fun e => h' ((elapsedMs_eq_zero now v.prevMs).1 e)
      simp only [velEstimate, VelState.uninitialized, beq_iff_eq, h, this, if_false]

end Sys2Proof.Machine
end

