-- ==== Sys2Proof/Laws/Operands.lean ====
section
/-! SUPPORT. The register map both ways, and what reading and writing one register can do. -/

namespace Sys2Proof.Machine

theorem Reg.ofAddr_addr (r : Reg) : Reg.ofAddr r.addr = some r := by cases r <;> rfl

theorem Reg.addr_inj (r q : Reg) (h : r.addr = q.addr) : r = q := by
  have := congrArg Reg.ofAddr h
  simpa [Reg.ofAddr_addr] using this

theorem Reg.ofAddr_eq_some (a : Addr) (r : Reg) : Reg.ofAddr a = some r ↔ a = r.addr := by
  constructor
  · intro h
    unfold Reg.ofAddr at h
    split at h <;> cases h <;> exact BitVec.eq_of_toNat_eq ‹_›
  · rintro rfl; exact r.ofAddr_addr

/-- A register that answers reads gives back what was written to it; the other registers read as before. -/
theorem readReg_writeReg_self (r : Reg) (v : Word) (s t : State) (h : writeReg r v s = some t)
    (hr : r ≠ .enSet) (hc : r ≠ .enClr) : readReg r t = some v := by
  cases r <;> simp [writeReg] at h hr hc <;> subst h <;> rfl

/-- The set and clear registers store in `EN` alone, so every other register reads as before. -/
theorem readReg_writeReg_ne (r q : Reg) (v : Word) (s t : State) (h : writeReg r v s = some t) (hq : q ≠ r)
    (hen : q = .en → r ≠ .enSet ∧ r ≠ .enClr) : readReg q t = readReg q s := by
  cases r <;> simp [writeReg] at h <;> subst h <;> cases q <;> simp_all [readReg]

/-- A write changes operand registers, configuration and outputs at most. -/
theorem writeReg_frame (r : Reg) (v : Word) (s t : State) (h : writeReg r v s = some t) :
    t.pi = s.pi ∧ t.vel = s.vel ∧ t.port = s.port ∧ t.cmdSrc = s.cmdSrc ∧ t.rst = s.rst ∧ t.rsp = s.rsp ∧
      t.inbox = s.inbox ∧ t.out.ccrA = s.out.ccrA ∧ t.out.ccrB = s.out.ccrB := by
  cases r <;> simp [writeReg] at h <;> subst h <;> simp

/-- A write to a register of one group leaves the other groups alone. -/
theorem writeReg_group (r : Reg) (v : Word) (s t : State) (h : writeReg r v s = some t) :
    (r.group ≠ .operand → t.x = s.x) ∧ (r.group ≠ .configuration → t.cfg = s.cfg) ∧
      (r.group ≠ .peripheral → t.out = s.out) := by
  cases r <;> simp [writeReg] at h <;> subst h <;> simp [Reg.group]

/-- Exactly the three read-only registers refuse every write. -/
theorem writeReg_isNone (r : Reg) (v : Word) (s : State) :
    writeReg r v s = none ↔ r = .ccrA ∨ r = .ccrB ∨ r = .en := by
  cases r <;> simp [writeReg]

/-- Exactly the two write-only registers refuse every read. -/
theorem readReg_isNone (r : Reg) (s : State) : readReg r s = none ↔ r = .enSet ∨ r = .enClr := by
  cases r <;> simp [readReg]

end Sys2Proof.Machine
end

