-- ==== Sys2Proof/Laws/Ops.lean ====
section
/-! SUPPORT. What a command and a step can do, said once: the requester check, `RD`, `WR`, the host's operations, `exec` and
`step`. -/

namespace Sys2Proof.Machine

theorem hostOnly_host (s : State) (op : State → State) (h : s.cmdSrc = .host) : hostOnly s op = op s := by
  simp [hostOnly, h]

theorem hostOnly_debug (s : State) (op : State → State) (h : s.cmdSrc = .debug) :
    hostOnly s op = cmdError s .access := by
  simp [hostOnly, h]

theorem mayReach_host (r : Reg) : mayReach .host r = true := rfl

theorem mayReach_debug (r : Reg) : mayReach .debug r = true ↔ r.group = .configuration := by
  simp [mayReach]

/-- The host's operations run their operation. -/
theorem exec_host (s : State) (h : s.cmdSrc = .host) :
    exec .getMs s = .next (getMsOp s) ∧ exec .velStep s = .next (velStepOp s) ∧
      exec .piStep s = .next (piStepOp s) ∧ exec .actuate s = .next (actuateOp s) ∧
      exec .piReset s = .next (piResetOp s) ∧ exec .velReset s = .next (velResetOp s) := by
  simp [exec, execGetMs, execVelStep, execPiStep, execActuate, execPiReset, execVelReset, hostOnly, h]

/-- `RD` writes nothing but the response. -/
theorem execRd_cases (addr : Addr) (s : State) :
    (∃ r v, addr = Reg.addr r ∧ mayReach s.cmdSrc r = true ∧ readReg r s = some v ∧
      execRd addr s = .next (respond s .ok v)) ∨
    execRd addr s = .next (cmdError s .addr) ∨ execRd addr s = .next (cmdError s .access) := by
  unfold execRd
  cases ha : Reg.ofAddr addr with
  | none => exact .inr (.inl rfl)
  | some r =>
    cases hm : mayReach s.cmdSrc r with
    | false => exact .inr (.inr (by simp [hm]))
    | true =>
      cases hr : readReg r s with
      | none => exact .inr (.inr (by simp [hm, hr]))
      | some v => exact .inl ⟨r, v, (Reg.ofAddr_eq_some _ _).1 ha, hm, hr, by simp [hm, hr]⟩

/-- `WR` stores a legal value, or writes nothing but the response. -/
theorem execWr_cases (addr : Addr) (data : Word) (s : State) :
    (∃ r t, addr = Reg.addr r ∧ mayReach s.cmdSrc r = true ∧ writeReg r data s = some t ∧ r.legal data = true ∧
      execWr addr data s = .next (respond t .ok 0)) ∨
    ∃ code, code ≠ Status.ok ∧ execWr addr data s = .next (cmdError s code) := by
  unfold execWr
  cases ha : Reg.ofAddr addr with
  | none => exact .inr ⟨.addr, by decide, rfl⟩
  | some r =>
    cases hm : mayReach s.cmdSrc r with
    | false => exact .inr ⟨.access, by decide, by simp [hm]⟩
    | true =>
      cases hw : writeReg r data s with
      | none => exact .inr ⟨.access, by decide, by simp [hm, hw]⟩
      | some t =>
        cases hl : r.legal data with
        | false => exact .inr ⟨.value, by decide, by simp [hm, hw, hl]⟩
        | true => exact .inl ⟨r, t, (Reg.ofAddr_eq_some _ _).1 ha, hm, hw, hl, by simp [hm, hw, hl]⟩

/-- Everything a command can do. -/
theorem exec_cases (i : Instr) (s t : State) (h : exec i s = .next t) :
    (∃ code, code ≠ Status.ok ∧ t = cmdError s code) ∨
    (∃ r v, i = .rd (Reg.addr r) ∧ mayReach s.cmdSrc r = true ∧ readReg r s = some v ∧ t = respond s .ok v) ∨
    (∃ r v t', i = .wr (Reg.addr r) v ∧ mayReach s.cmdSrc r = true ∧ writeReg r v s = some t' ∧
      r.legal v = true ∧ t = respond t' .ok 0) ∨
    (s.cmdSrc = .host ∧
      ((i = .getMs ∧ t = getMsOp s) ∨ (i = .velStep ∧ t = velStepOp s) ∨ (i = .piStep ∧ t = piStepOp s) ∨
        (i = .actuate ∧ t = actuateOp s) ∨ (i = .piReset ∧ t = piResetOp s) ∨ (i = .velReset ∧ t = velResetOp s))) := by
  cases i
  case rd addr =>
    obtain ⟨r, v, rfl, hm, hr, he⟩ | he | he := execRd_cases addr s <;> rw [exec, he] at h <;> cases h
    · exact .inr (.inl ⟨r, v, rfl, hm, hr, rfl⟩)
    · exact .inl ⟨_, by decide, rfl⟩
    · exact .inl ⟨_, by decide, rfl⟩
  case wr addr data =>
    obtain ⟨r, t', rfl, hm, hw, hl, he⟩ | ⟨code, hc, he⟩ := execWr_cases addr data s <;> rw [exec, he] at h <;> cases h
    · exact .inr (.inr (.inl ⟨r, data, t', rfl, hm, hw, hl, rfl⟩))
    · exact .inl ⟨code, hc, rfl⟩
  all_goals
    simp only [exec, execGetMs, execVelStep, execPiStep, execActuate, execPiReset, execVelReset] at h
    cases hs : s.cmdSrc
    · rw [hostOnly_host _ _ hs] at h; cases h; simp
    · rw [hostOnly_debug _ _ hs] at h; cases h; exact .inl ⟨_, by decide, rfl⟩

/-- Everything a step can do. -/
theorem step_cases (s t : State) (h : step s = .next t) :
    (s.inbox = [] ∧ t = waitIdle s) ∨
    (∃ port rest, s.inbox = .idle port :: rest ∧ t = idleAt s port rest) ∨
    (∃ port inProgress rest, s.inbox = .reset port inProgress :: rest ∧ t = hardReset s port rest) ∨
    ∃ c rest, s.inbox = .command c :: rest ∧
      ((∃ e, decode c.word = .error e ∧ t = cmdError (accept s c rest) .op) ∨
        ∃ i, decode c.word = .ok i ∧ exec i (accept s c rest) = .next t) := by
  unfold step at h
  split at h <;> rename_i hi
  · cases h; exact .inl ⟨hi, rfl⟩
  · cases h; exact .inr (.inl ⟨_, _, hi, rfl⟩)
  · cases h; exact .inr (.inr (.inl ⟨_, _, _, hi, rfl⟩))
  · refine .inr (.inr (.inr ⟨_, _, hi, ?_⟩))
    unfold runWord at h
    split at h <;> rename_i hd
    · exact .inr ⟨_, hd, h⟩
    · cases h; exact .inl ⟨_, hd, rfl⟩

end Sys2Proof.Machine
end

