-- ==== Sys2Proof/Laws/PerInstr.lean ====
section
/-! SUPPORT. Statements for all commands, one lemma per command. -/

/-- The encoding of a command matches its row of the opcode table (30_encoding.md R83): `(w & mask) = match`. -/
def Sys2Proof.Laws.RowMatch.Statement (i : Sys2Proof.Instr) : Prop :=
  Sys2Proof.encode i &&& (Sys2Proof.opcodeRow i).2 = (Sys2Proof.opcodeRow i).1

namespace Sys2Proof.Laws.RowMatch

/-- The masked fields of a word, field by field. -/
theorem masked (op addr : BitVec 8) (rsv : BitVec 16) (data : Word) (mOp mAddr : BitVec 8) (mRsv : BitVec 16)
    (mData : Word) :
    wordOf op addr rsv data &&& wordOf mOp mAddr mRsv mData =
      wordOf (op &&& mOp) (addr &&& mAddr) (rsv &&& mRsv) (data &&& mData) :=
  BitVec.and_append.trans (by rw [BitVec.and_append, BitVec.and_append]; rfl)

theorem rd (addr : Addr) : Statement (.rd addr) := by
  have h : (opcodeRow (.rd addr)).2 = wordOf 0xFF 0x00 0xFFFF 0xFFFFFFFF := rfl
  have h' : (opcodeRow (.rd addr)).1 = wordOf 0x01 0 0 0 := rfl
  unfold Statement
  rw [h, h', encode, masked]; simp

theorem wr (addr : Addr) (data : Word) : Statement (.wr addr data) := by
  have h : (opcodeRow (.wr addr data)).2 = wordOf 0xFF 0x00 0xFFFF 0 := rfl
  have h' : (opcodeRow (.wr addr data)).1 = wordOf 0x02 0 0 0 := rfl
  unfold Statement
  rw [h, h', encode, masked]; simp

theorem getMs : Statement .getMs := by unfold Statement; decide

theorem velStep : Statement .velStep := by unfold Statement; decide

theorem piStep : Statement .piStep := by unfold Statement; decide

theorem actuate : Statement .actuate := by unfold Statement; decide

theorem piReset : Statement .piReset := by unfold Statement; decide

theorem velReset : Statement .velReset := by unfold Statement; decide

end Sys2Proof.Laws.RowMatch
end

