-- ==== Sys2Proof/Laws/Premises.lean ====
section
/-! SUPPORT. The premises of 70_reset_and_hazards.md R284 that a sequence satisfies: two neighbours of a rising sequence of
timestamps, and the commands the loop driver issues. -/

namespace Sys2Proof.Machine

/-- Neighbours in a strictly rising sequence of timestamps are fresh ticks. -/
theorem MonotoneTicks.freshTick (moments : List Int) (stamps : List Word) (h : MonotoneTicks moments stamps)
    (k : Nat) (hk : k + 1 < moments.length) :
    FreshTick (stamps[k]'(by rw [h.2, List.length_map]; omega)) (stamps[k + 1]'(by rw [h.2, List.length_map]; omega))
      (moments[k + 1] - moments[k]) := by
  obtain ⟨hp, rfl⟩ := h
  have hlt := List.pairwise_iff_getElem.1 hp k (k + 1) (by omega) hk (by omega)
  refine ⟨by omega, ?_⟩
  simp only [List.getElem_map, ← BitVec.ofInt_add]
  congr 1; omega

/-- A step back, read as a true difference, is no fresh tick. -/
theorem BackwardStep.not_freshTick (before after : Word) (g : Int) (h : BackwardStep before after g) :
    ¬ FreshTick before after (-g) := fun hf => by
  have := hf.1
  have := h.1
  omega

/-- While the tick is no new boundary the driver stays where it is, issuing `GET_MS`. -/
theorem HostDriver.issued_wait (d : HostDriver) (hd : d.phase = .poll) (polls answers : List Word)
    (h : ∀ p ∈ polls, isNewBoundary p d.lastServiced = false) :
    d.issued (polls ++ answers) = List.replicate polls.length .getMs ++ d.issued answers := by
  induction polls with
  | nil => rfl
  | cons p polls ih =>
    have hp : d.answered p = d := by simp [HostDriver.answered, hd, h p]
    have hi : d.issues = some .getMs := by simp [HostDriver.issues, hd]
    simp only [List.cons_append, HostDriver.issued, hi, hp, List.length_cons, List.replicate_succ]
    rw [ih fun q hq => h q (List.mem_cons_of_mem _ hq)]

/-- A boundary without a flip: the four operations. -/
theorem HostDriver.issued_tick (d : HostDriver) (hd : d.phase = .poll) (t v p u : Word)
    (ht : isNewBoundary t d.lastServiced = true) (hf : isFlipBoundary t = false) :
    d.issued [t, v, p, u] = [.getMs, .velStep, .piStep, .actuate] := by
  simp [HostDriver.issued, HostDriver.issues, HostDriver.answered, hd, ht, hf]

/-- A boundary with a flip: the reference is read and written negated before the estimator runs. -/
theorem HostDriver.issued_flip (d : HostDriver) (hd : d.phase = .poll) (t r w v p u : Word)
    (ht : isNewBoundary t d.lastServiced = true) (hf : isFlipBoundary t = true) :
    d.issued [t, r, w, v, p, u] =
      [.getMs, asmRd .ref, asmWr .ref (-r.toInt), .velStep, .piStep, .actuate] := by
  simp [HostDriver.issued, HostDriver.issues, HostDriver.answered, hd, ht, hf, asmRd, asmWr]

/-- The wait is no part of the tick. -/
theorem tickOf_wait (n : Nat) (rest : List Instr) (h : Instr.getMs ∉ rest) :
    tickOf (List.replicate n .getMs ++ .getMs :: rest) = .getMs :: rest := by
  induction n with
  | zero => simp [tickOf, h]
  | succ n ih => simpa [List.replicate_succ, tickOf] using ih

/-- Every iteration of the loop driver keeps premise P6, after any wait, at a boundary with or without a flip. -/
theorem HostDriver.issued_tickOrder (d : HostDriver) (hd : d.phase = .poll) (polls : List Word)
    (h : ∀ p ∈ polls, isNewBoundary p d.lastServiced = false) (t r w v p u : Word)
    (ht : isNewBoundary t d.lastServiced = true) :
    TickOrder (tickOf (d.issued (polls ++ if isFlipBoundary t then [t, r, w, v, p, u] else [t, v, p, u]))) := by
  rw [HostDriver.issued_wait d hd polls _ h]
  cases hf : isFlipBoundary t
  · rw [if_neg (by decide), HostDriver.issued_tick d hd t v p u ht hf, tickOf_wait _ _ (by decide)]
    decide
  · rw [if_pos rfl, HostDriver.issued_flip d hd t r w v p u ht hf, tickOf_wait _ _ (by simp [asmRd, asmWr])]
    rfl

end Sys2Proof.Machine
end

