-- ==== Sys2Proof/Tests/Slice0.lean ====
section
/-! SUPPORT. The model's own tests: the checks of WellFormed, words written out from 30_encoding.md, one-step tests with the
values of 95_test_vectors.md, the host's sequences, and one witness for each statement that has hypotheses. -/

namespace Sys2Proof.Tests

open Sys2Proof Sys2Proof.Machine

/-! Small states, built from the reset state. -/

/-- The state a step answers, if it answers one. -/
def nextOf (o : Host.Outcome State Fault Refusal) : Option State :=
  match o with
  | .next t => some t
  | .fault _ => none
  | .refused _ => none

/-- One command presented, with the ports as they stand. -/
def present (src : Requester) (w : CmdWord) (s : State) : State := { s with inbox := [.command ⟨src, w, s.port⟩] }

/-- The response to one command word. -/
def answer (src : Requester) (w : CmdWord) (s : State) : Option Response :=
  (nextOf (step (present src w s))).bind (·.rsp)

/-- The core after scenario S5 of 95_test_vectors.md up to its fifth call, with a running controller. -/
def running : State :=
  { State.reset with
    x := { now := 60, ref := 4000, meas := 24005, u := 0x20000000 }
    pi := { integrator := 5000000, lastMs := 50, firstCall := false, uPrev := 7 }
    vel :=
      { prevCount := BitVec.ofInt 16 (-32760), prevMs := 50
        ring :=
          ((((VelState.reset.ring.set 0 ⟨100, 10⟩).set 1 ⟨100, 10⟩).set 2 ⟨32560, 10⟩).set 3 ⟨16, 10⟩)
        sumDeltaCount := 32776, sumDeltaMs := 40, idx := 4, filled := 4, velFilt := 24005 }
    cfg := { Tunables.reset with encoderPpr := 512, velWindowMs := 40, kpQ15 := 1000, iClampQ30 := 16777216 }
    out := { ccrA := 500, ccrB := 0, en := 1 }
    port := { tickMs := 70, encCnt := BitVec.ofInt 16 (-32660), pwmArr := 999 } }

/-- The same core as the debug requester reaches it. -/
def debugging : State := { running with cmdSrc := .debug }

/-! WellFormed: an ill-formed term for each check. -/

theorem test_wf_refuses_rsv : (⟨0x01, 0x01, 0x0001, 0⟩ : Fields).rsvZero = false ∧
    (⟨0x01, 0x01, 0x0001, 0⟩ : Fields).wellFormed = false := by decide

theorem test_wf_refuses_unknown_op : (⟨0x03, 0, 0, 0⟩ : Fields).opKnown = false ∧
    (⟨0x03, 0, 0, 0⟩ : Fields).wellFormed = false := by decide

theorem test_wf_refuses_addr : (⟨0x10, 0x01, 0, 0⟩ : Fields).addrAllowed = false ∧
    (⟨0x10, 0x01, 0, 0⟩ : Fields).wellFormed = false := by decide

theorem test_wf_refuses_data : (⟨0x01, 0x10, 0, 1⟩ : Fields).dataAllowed = false ∧
    (⟨0x01, 0x10, 0, 1⟩ : Fields).wellFormed = false := by decide

theorem test_wf_accepts_write : (⟨0x02, 0xFF, 0, 0xFFFFFFFF⟩ : Fields).wellFormed = true := by decide

/-! Decoding: the words of 30_encoding.md R83 and R88 and 45_register_access.md R239, every command. -/

theorem test_decode_rd : decode 0x0121000000000000 = .ok (.rd 0x21) := by decide

theorem test_decode_wr : decode 0x02010000FFFFF830 = .ok (.wr 0x01 0xFFFFF830) := by decide

theorem test_decode_getMs : decode 0x1000000000000000 = .ok .getMs := by decide

theorem test_decode_velStep : decode 0x1100000000000000 = .ok .velStep := by decide

theorem test_decode_piStep : decode 0x1200000000000000 = .ok .piStep := by decide

theorem test_decode_actuate : decode 0x1300000000000000 = .ok .actuate := by decide

theorem test_decode_piReset : decode 0x2000000000000000 = .ok .piReset := by decide

theorem test_decode_velReset : decode 0x2100000000000000 = .ok .velReset := by decide

/-- The illegal words of 95_test_vectors.md section 2.6. -/
theorem test_decode_illegal :
    [0x0000000000000000, 0xFFFFFFFFFFFFFFFF, 0x1200000000000001, 0x1100010000000000, 0x1001000000000000,
      0x0101000100000000, 0x0110000000000001].map (fun w : CmdWord => (decode w).toOption) =
    [none, none, none, none, none, none, none] := by decide

theorem test_encode_wr : encode (.wr 0x01 0xFFFFF830) = 0x02010000FFFFF830 := by decide

theorem test_table_word : decodeTableWord 64 0x02100000000003E8 = some (.wr 0x10 1000) ∧
    decodeTableWord 64 0x1200000000000001 = none := by decide

/-- A table word is the next thing a step from reset runs. -/
theorem test_fetch_word :
    (nextOf (step (State.reset.withFetchWord 64 0x02100000000003E8))).map (fun t => (t.cfg.kpQ15, t.inbox)) =
      some (1000, []) := by decide

/-! One step of each command (95_test_vectors.md sections 1 and 2). -/

/-- R231, R239 rows 1 and 8, section 2.6. -/
theorem test_rd : answer .host 0x0113000000000000 State.reset = some ⟨.ok, 4000⟩ ∧
    answer .host 0x0104000000000000 State.reset = some ⟨.addr, 0⟩ ∧
    answer .host 0x0123000000000000 State.reset = some ⟨.access, 0⟩ ∧
    answer .debug 0x0101000000000000 State.reset = some ⟨.access, 0⟩ ∧
    answer .debug 0x0105000000000000 State.reset = some ⟨.addr, 0⟩ := by decide

/-- Section 2.6: limits of `KP_Q15`, a read-only register, the order of the errors. -/
theorem test_wr_status : answer .host 0x0210000000008000 State.reset = some ⟨.value, 0⟩ ∧
    answer .host 0x02100000FFFF8000 State.reset = some ⟨.ok, 0⟩ ∧
    answer .host 0x0220000000000005 State.reset = some ⟨.access, 0⟩ ∧
    answer .debug 0x0223000000000003 State.reset = some ⟨.access, 0⟩ ∧
    answer .debug 0x0213000000000000 State.reset = some ⟨.value, 0⟩ := by decide

/-- R237, the table of the enable lines: 0b01 with line 1 set, 0b11 with line 0 cleared. -/
theorem test_wr_enable :
    (nextOf (execWr 0x23 2 { running with out := ⟨0, 0, 1⟩ })).map (·.out.en) = some 3 ∧
    (nextOf (execWr 0x24 1 { running with out := ⟨0, 0, 3⟩ })).map (·.out.en) = some 2 := by decide

/-- Section 2.5. -/
theorem test_getMs : (nextOf (execGetMs { running with port := ⟨4294967295, 0, 0⟩ })).map (fun t => (t.x.now, t.rsp)) =
    some (4294967295, some ⟨.ok, 0xFFFFFFFF⟩) := by decide

/-- S5, the last call: slot 0 is dropped and zeroed, slot 4 filled. -/
theorem test_velStep_trims :
    (nextOf (execVelStep running)).map
        (fun t => (t.x.meas, t.vel.sumDeltaCount, t.vel.sumDeltaMs, t.vel.idx, t.vel.filled)) =
      some (24005, 32776, 40, 5, 4) ∧
    (nextOf (execVelStep running)).map (fun t => (t.vel.slot 0, t.vel.slot 4, t.vel.prevCount, t.vel.prevMs)) =
      some (⟨0, 0⟩, ⟨100, 10⟩, BitVec.ofInt 16 (-32660), 60) := by decide

/-- V-4 and V-5, one smoothing step each: 73 to 127 and −219 to −256 (the shift of a negative value rounds down). -/
theorem test_velStep_smooths : smooth 73 292 2 = 127 ∧ smooth (-219) (-292) 1 = -256 := by decide

/-- S4, the second call: the candidate saturates and the integrator is held. -/
theorem test_piStep_holds :
    (nextOf (execPiStep
        { running with
          x := ⟨10, 4000, 0, 0⟩, pi := ⟨0, 0, false, 0⟩
          cfg :=
            { Tunables.reset with
              kpQ15 := 32767, kiQ15 := 32767, intWindowPct := 100, iClampQ30 := 1073741823 } })).map
      (fun t => (t.pi.integrator, t.x.u, t.pi.lastMs)) = some (0, 0x3FFF0001, 10) := by decide

/-- PI-5, the second call: negative error, truncation toward zero. -/
theorem test_piStep_integrates :
    (nextOf (execPiStep
        { running with
          x := ⟨15, 0, 7, 0⟩, pi := ⟨0, 5, false, 0⟩
          cfg :=
            { Tunables.reset with kpQ15 := 1000, kiQ15 := 1000, absIntWindowRpm := 500, iClampQ30 := 16777216 } })).map
      (fun t => (t.pi.integrator, t.x.u)) = some (BitVec.ofInt 32 (-570), BitVec.ofInt 32 (-57570)) := by decide

/-- A-1 and A-10. -/
theorem test_actuate :
    (nextOf (execActuate running)).map (fun t => (t.out.ccrA, t.out.ccrB)) = some (0, 500) ∧
    (nextOf (execActuate { running with x := ⟨0, 0, 0, 0x80000000⟩ })).map (fun t => (t.out.ccrA, t.out.ccrB, t.x.u)) =
      some (999, 0, 0x80000000) := by decide

/-- A-16 and A-17: `top` is exact at the largest period. -/
theorem test_actuate_largest_period : comparePair 1073741823 4294967295 = (0, 4294967292) ∧
    comparePair (-1073741824) 4294967295 = (4294967295, 0) := by decide

/-- PI-15: the reset leaves `U`. -/
theorem test_piReset : (nextOf (execPiReset running)).map (fun t => (t.pi, t.x.u, t.vel.velFilt)) =
    some (⟨0, 0, true, 0⟩, 0x20000000, 24005) := by decide

/-- V-15: the reset leaves `MEAS`. -/
theorem test_velReset : (nextOf (execVelReset running)).map (fun t => (t.vel.filled, t.vel.slot 3, t.x.meas)) =
    some (0, ⟨0, 0⟩, 24005) := by decide

/-- Section 2.1. -/
theorem test_helpers : satCtrl 1073741824 = 1073741823 ∧ clampQ15 32768 = 32767 ∧ divZ (-7) 2 = -3 ∧ asr (-7) 2 = -2 ∧
    absZ (-2147483648) = 2147483648 ∧ countDiff (BitVec.ofInt 16 (-32760)) 32760 = 16 ∧
    elapsedMs 5 4294967291 = 10 := by decide

/-! The host's sequences (44_loop_driver.md R212, R214, R216; 30_encoding.md R88, R89). -/

theorem test_setup_words : setupSeq.map encode =
    [0x02010000000007D0, 0x0200000000000000, 0x0202000000000000, 0x0203000000000000, 0x0223000000000003,
      0x2000000000000000] := by decide

theorem test_tick_words : tickSeq.map encode =
    [0x1000000000000000, 0x1100000000000000, 0x1200000000000000, 0x1300000000000000] := by decide

theorem test_gpio_words : [gpioSet 0, gpioSet 1, gpioClear 0, motorEnable].map encode =
    [0x0223000000000001, 0x0223000000000002, 0x0224000000000001, 0x0223000000000003] := by decide

theorem test_asm_text : asmText (.wr 0x01 0xFFFFF830) = "WR REF, -2000" ∧ asmText (.rd 0x21) = "RD CCR_B" ∧
    asmText (.rd 0x04) = "RD 0x04" := by decide

/-- At 4000 ms the driver reads the reference and writes it negated, then runs the estimator. -/
theorem test_loop_flip :
    (HostDriver.afterSetup.answered 4000).issues = some (.rd 0x01) ∧
    ((HostDriver.afterSetup.answered 4000).answered 2000).issues = some (.wr 0x01 0xFFFFF830) ∧
    (((HostDriver.afterSetup.answered 4000).answered 2000).answered 0).issues = some .velStep ∧
    (HostDriver.afterSetup.answered 9).issues = some .getMs ∧
    (HostDriver.afterSetup.answered 10).issues = some .velStep := by decide

/-- R219: the first wait reads 3, 7 and 10. -/
theorem test_loop_wait :
    HostDriver.afterSetup.issued [3, 7, 10, 0, 0, 0] = [.getMs, .getMs, .getMs, .velStep, .piStep, .actuate] := by decide

/-! The premises of 70_reset_and_hazards.md R284. -/

/-- V-10 and V-13: a wrap of the tick is a rising sequence, a step back to 115 is none. -/
theorem test_premise_monotone :
    MonotoneTicks [4294967280, 4294967290, 4294967300] [0xFFFFFFF0, 0xFFFFFFFA, 4] ∧
    ¬ MonotoneTicks [110, 120, 115] [110, 120, 115] ∧ ¬ MonotoneTicks [110, 110] [110, 110] ∧
    BackwardStep 120 115 5 ∧ ¬ FreshTick 120 115 (-5) := by decide

/-- R216: the flip tick with its `RD REF` and `WR REF` keeps the order, after a wait too; R289: `PI_STEP` before `VEL_STEP`, or a
tick without `GET_MS`, does not. -/
theorem test_premise_tick_order :
    TickOrder tickSeq ∧ TickOrder (tickOf (HostDriver.afterSetup.issued [3999, 4000, 2000, 0, 0, 0, 0])) ∧
    ¬ TickOrder [.getMs, .piStep, .velStep, .actuate] ∧ ¬ TickOrder [.velStep, .piStep, .actuate] ∧
    ¬ TickOrder [.getMs, .velStep, .getMs, .piStep, .actuate] ∧ ControlCadence 4294967290 4 := by decide

/-! Witnesses: for each statement with hypotheses, concrete values that meet them together, at the ends of each clause's range. -/

theorem test_witness_DecodeOfEncodeIsCommand : (Instr.wr 0xFF 0xFFFFFFFF).wellFormed = true := by decide

theorem test_witness_DecodedWordIsItsEncoding : decode 0x02FF0000FFFFFFFF = .ok (.wr 0xFF 0xFFFFFFFF) := by decide

theorem test_witness_DecodeFollowsOpcodeMap :
    (0x01FF000000000000 : CmdWord) &&& (opcodeRow (.rd 0)).2 = (opcodeRow (.rd 0)).1 ∧
    (0x01FF000000000000 : CmdWord) &&& (opcodeRow (.rd 0xFF)).2 = (opcodeRow (.rd 0xFF)).1 := by decide

theorem test_witness_StepRunsDecodedCommand :
    (present .debug 0x0110000000000000 running).inbox = .command ⟨.debug, 0x0110000000000000, running.port⟩ :: [] ∧
    decode 0x0110000000000000 = .ok (.rd 0x10) ∧ (Instr.rd 0x10).wellFormed = true := by decide

theorem test_witness_IllegalWordAnswersStOp :
    (present .host 0x1200000000000001 running).inbox = .command ⟨.host, 0x1200000000000001, running.port⟩ :: [] ∧
    decode 0x1200000000000001 = .error .dataNotZero := by decide

theorem test_witness_EveryStepAnswersOneResponse :
    (present .host 0xFFFFFFFFFFFFFFFF running).inbox = .command ⟨.host, 0xFFFFFFFFFFFFFFFF, running.port⟩ :: [] ∧
    (∀ c rest, running.inbox ≠ .command c :: rest) ∧
    ∀ c rest, ({ running with inbox := [.idle running.port] } : State).inbox ≠ .command c :: rest := by
  refine ⟨rfl, fun c rest h => ?_, fun c rest h => ?_⟩
  · exact List.cons_ne_nil _ _ h.symm
  · exact Event.noConfusion (List.cons.inj h).1

theorem test_witness_CommandErrorChangesNothing :
    exec (.rd 0x04) running = .next (cmdError running .addr) ∧ (cmdError running .addr).rsp = some ⟨.addr, 0⟩ ∧
    (⟨.addr, 0⟩ : Response).status ≠ .ok := ⟨rfl, rfl, by decide⟩

/-- The tests on a word's fields that 60_exceptions.md R254 orders, as StatusFollowsFixedOrder writes them. -/
def LegalWord (w : CmdWord) : Bool :=
  decide (w.extractLsb' 32 16 = 0 ∧
    ((w.extractLsb' 56 8 = 0x01 ∧ w.extractLsb' 0 32 = 0) ∨ w.extractLsb' 56 8 = 0x02 ∨
      (w.extractLsb' 56 8 ∈ [0x10, 0x11, 0x12, 0x13, 0x20, 0x21] ∧ w.extractLsb' 48 8 = 0 ∧ w.extractLsb' 0 32 = 0)))

/-- An address of 20_memory.md R61. -/
def Mapped (a : Addr) : Bool :=
  decide (a.toNat ≤ 0x03 ∨ (0x10 ≤ a.toNat ∧ a.toNat ≤ 0x1A) ∨ (0x20 ≤ a.toNat ∧ a.toNat ≤ 0x24))

/-- The configuration group. -/
def InConfig (a : Addr) : Bool := decide (0x10 ≤ a.toNat ∧ a.toNat ≤ 0x1A)

/-- The patterns 45_register_access.md R236 refuses. -/
def Refused (a : Addr) (v : Word) : Bool :=
  decide ((a ∈ [0x10, 0x11] ∧ 0x8000 ≤ v.toNat ∧ v.toNat ≤ 0xFFFF7FFF) ∨
    (a = 0x13 ∧ (v.toNat = 0 ∨ 0x80000000 ≤ v.toNat)) ∨
    (a ∈ [0x14, 0x15, 0x16, 0x17, 0x1A] ∧ 0x80000000 ≤ v.toNat) ∨ (a ∈ [0x23, 0x24] ∧ 4 ≤ v.toNat))

/-- The five kinds of word that R254 tells apart, one or more of each: not legal; an operation of either requester; an unmapped
address at the ends of each gap; a refused direction or requester; a refused value and its neighbour that is not refused. -/
theorem test_witness_StatusFollowsFixedOrder :
    (present .host 0x0101000000000001 running).inbox = .command ⟨.host, 0x0101000000000001, running.port⟩ :: [] ∧
    ([0x0101000000000001, 0x0201000100000000, 0x1001000000000000, 0x2200000000000000].all fun w => !LegalWord w) ∧
    (LegalWord 0x1200000000000000 ∧ (0x1200000000000000 : CmdWord).extractLsb' 56 8 ≠ 0x01 ∧
      (0x1200000000000000 : CmdWord).extractLsb' 56 8 ≠ 0x02) ∧
    ([0x0104000000000000, 0x010F000000000000, 0x021B0000FFFFFFFF, 0x021F000000000000, 0x0125000000000000,
      0x02FF000000000001].all fun w => LegalWord w && !Mapped (w.extractLsb' 48 8)) ∧
    ([0x0103000000000000, 0x0120000000000000, 0x0224000000000003].all fun w =>
      LegalWord w && Mapped (w.extractLsb' 48 8) && !InConfig (w.extractLsb' 48 8)) ∧
    (LegalWord 0x0222000000000007 ∧ Mapped 0x22 ∧ (0x22 : Addr) ∈ [0x20, 0x21, 0x22]) ∧
    (LegalWord 0x0123000000000000 ∧ Mapped 0x23 ∧ (0x23 : Addr) ∈ [0x23, 0x24]) ∧
    (LegalWord 0x0210000000008000 ∧ InConfig 0x10 ∧ Refused 0x10 0x8000) ∧
    (LegalWord 0x0210000000007FFF ∧ InConfig 0x10 ∧ ¬ Refused 0x10 0x7FFF) ∧
    (LegalWord 0x011A000000000000 ∧ InConfig 0x1A) := by
  refine ⟨rfl, ?_, ?_, ?_, ?_, ?_, ?_, ?_, ?_, ?_⟩ <;> decide

theorem test_witness_RdAnswersTheRegister :
    (∀ a ∈ ([0x04, 0x0F, 0x1B, 0x1F, 0x25, 0xFF] : List Addr), ¬ Mapped a) ∧
    (∀ a ∈ ([0x00, 0x03, 0x20, 0x24] : List Addr), Mapped a ∧ debugging.cmdSrc = .debug ∧ ¬ InConfig a) ∧
    (running.cmdSrc = .host ∧ (0x23 : Addr) ∈ [0x23, 0x24] ∧ (0x24 : Addr) ∈ [0x23, 0x24]) ∧
    ((0x10, 1000) ∈ [((0x10 : Addr), running.cfg.kpQ15)] ∧ (0x1A, 512) ∈ [((0x1A : Addr), running.cfg.encoderPpr)]) ∧
    ((0x00, 60) ∈ [((0x00 : Addr), running.x.now)] ∧
      (0x22, 1) ∈ [((0x22 : Addr), BitVec.ofNat 32 running.out.en.toNat)]) := by decide

theorem test_witness_WrStoresOperandRegister : running.cmdSrc = .host := by decide

theorem test_witness_WrStoresLegalConfiguration :
    (-32768 ≤ (0xFFFF8000 : Word).toInt ∧ (0xFFFF8000 : Word).toInt ≤ 32767) ∧
    (-32768 ≤ (0x7FFF : Word).toInt ∧ (0x7FFF : Word).toInt ≤ 32767) ∧
    1 ≤ (1 : Word).toInt ∧ 1 ≤ (0x7FFFFFFF : Word).toInt ∧ 0 ≤ (0 : Word).toInt ∧ 0 ≤ (0x7FFFFFFF : Word).toInt := by
  decide

theorem test_witness_WrRefusesPatternsOutOfRange :
    (running.cmdSrc = .host ∧ debugging.cmdSrc ≠ .host ∧ InConfig 0x10 ∧ InConfig 0x1A) ∧
    (Refused 0x10 0x8000 ∧ Refused 0x11 0xFFFF7FFF ∧ ¬ Refused 0x10 0x7FFF ∧ ¬ Refused 0x11 0xFFFF8000) ∧
    (Refused 0x13 0 ∧ Refused 0x13 0x80000000 ∧ ¬ Refused 0x13 1 ∧ ¬ Refused 0x13 0x7FFFFFFF) ∧
    (Refused 0x1A 0xFFFFFFFF ∧ ¬ Refused 0x1A 0 ∧ Refused 0x23 4 ∧ ¬ Refused 0x24 3 ∧ ¬ Refused 0x00 0xFFFFFFFF) := by
  refine ⟨?_, ?_, ?_, ?_⟩ <;> decide

theorem test_witness_WrSetsAndClearsEnableLines : running.cmdSrc = .host ∧ (3 : Word).toNat < 4 := by decide

theorem test_witness_RdAfterWrReadsTheValue :
    running.cmdSrc = .host ∧ (0x1A : Addr).toNat ≤ 0x1A ∧
    exec (.wr 0x1A 7) running =
      .next (respond { running with cfg := { running.cfg with encoderPpr := 7 } } .ok 0) ∧
    (0x24 : Addr) ≠ 0x1A := ⟨rfl, by decide, rfl, by decide⟩

theorem test_witness_DebugRequesterRefusedOperations :
    debugging.cmdSrc = .debug ∧ Instr.velReset ∈ [Instr.getMs, .velStep, .piStep, .actuate, .piReset, .velReset] := by
  decide

theorem test_witness_GetMsSamplesTick :
    running.cmdSrc = .host ∧ running.port.tickMs ≠ running.x.now ∧ debugging.cmdSrc = .debug := by decide

theorem test_witness_VelStepLatchesFirstSample : State.reset.cmdSrc = .host ∧ State.reset.vel.prevMs = 0 := by decide

theorem test_witness_VelStepDuplicateTickKeepsHistory :
    let s : State := { running with x := { running.x with now := 50 } }
    s.cmdSrc = .host ∧ s.vel.prevMs ≠ 0 ∧ ((s.x.now.toNat : Int) - s.vel.prevMs.toNat) % 2 ^ 32 = 0 := by decide

theorem test_witness_VelStepFullStep :
    running.cmdSrc = .host ∧ running.vel.prevMs ≠ 0 ∧ running.x.now ≠ running.vel.prevMs := by decide

theorem test_witness_TrimLeavesLongestSuffix :
    EstimatorSound running.vel ∧ 1 ≤ running.vel.filled.toNat ∧
    (trim 20 running.vel).active.length < running.vel.active.length := by decide

theorem test_witness_VelStepRespectsWindow :
    running.cmdSrc = .host ∧ EstimatorSound running.vel ∧ running.vel.prevMs ≠ 0 ∧ running.x.now ≠ running.vel.prevMs := by
  decide

theorem test_witness_RpmClampNeverBinds :
    EstimatorSound running.vel ∧ 1 ≤ running.vel.filled.toNat ∧ 1 ≤ ({ running.cfg with encoderPpr := 1 }).encoderPpr.toInt := by
  decide

theorem test_witness_SmoothedSpeedLiesBetween :
    running.cmdSrc = .host ∧ running.vel.prevMs ≠ 0 ∧ running.x.now ≠ running.vel.prevMs ∧
    (takeSample running.cfg running.x.now running.port.encCnt running.vel).sumDeltaMs ≠ 0 ∧
    running.cfg.encoderPpr ≠ 0 ∧ running.cfg.velIirShift.toInt ≤ 0 := by decide

theorem test_witness_DifferencesAreTrueUnderPremises :
    TrueMovement 32767 (BitVec.ofInt 16 (-1)) (-32768) ∧ TrueMovement 0 32767 32767 ∧
    TrueElapsed 1 0 4294967295 ∧ TrueElapsed 7 7 0 ∧
    (FreshTick 7 8 1 ∧ (1 : Int) < 2 ^ 32) ∧ (FreshTick 1 0 4294967295 ∧ (4294967295 : Int) < 2 ^ 32) := by decide

theorem test_witness_VelResetClearsEstimator : running.cmdSrc = .host ∧ running.vel ≠ VelState.reset := by decide

theorem test_witness_PiStepFirstCallReturnsZero : State.reset.cmdSrc = .host ∧ State.reset.pi.firstCall = true := by decide

theorem test_witness_PiStepDuplicateTickReturnsPrevious :
    let s : State := { running with x := { running.x with now := 50 } }
    s.cmdSrc = .host ∧ s.pi.firstCall = false ∧ s.x.now = s.pi.lastMs := by decide

theorem test_witness_PiStepFullStep :
    running.cmdSrc = .host ∧ ConfigLegal running.cfg ∧ running.pi.firstCall = false ∧ running.x.now ≠ running.pi.lastMs := by
  decide

/-- Each cell of the table has values, at the limits of the range. -/
theorem test_witness_AntiWindupCommitTable :
    ((2 : Int) ^ 30 - 1 < 1073741824 ∧ (0 : Int) < 1) ∧ ((2 : Int) ^ 30 - 1 < 1073741824 ∧ (0 : Int) ≤ 0) ∧
    (-((2 : Int) ^ 30) ≤ -1073741824 ∧ (1073741823 : Int) ≤ 2 ^ 30 - 1) ∧
    ((-1073741825 : Int) < -(2 ^ 30) ∧ (0 : Int) ≤ 0) ∧ ((-1073741825 : Int) < -(2 ^ 30) ∧ (-1 : Int) < 0) := by decide

theorem test_witness_PiStepResultInControlRange : running.cmdSrc = .host ∧ InCtrlRange running.pi.uPrev.toInt := by decide

/-- A full step whose integrating branch commits, with its candidate sum. -/
def integrates (s : State) : Option Int :=
  let err := piErr s.cfg s.x.ref.toInt s.x.meas.toInt
  let q := piErrQ15 s.cfg err
  let w := piWindow s.cfg s.x.ref.toInt
  let uCand := piFf s.cfg s.x.ref.toInt + piP s.cfg q +
    piICand s.cfg err q w (elapsedMs s.x.now s.pi.lastMs) s.pi.integrator.toInt
  if s.cmdSrc = .host ∧ ConfigLegal s.cfg ∧ s.pi.firstCall = false ∧ s.x.now ≠ s.pi.lastMs ∧ |err| ≤ w ∧
      ¬ (2 ^ 30 - 1 < uCand ∧ 0 < q) ∧ ¬ (uCand < -(2 ^ 30) ∧ q < 0) then some uCand else none

/-- A core with the reference `ref`, the speed `meas` and the integrator `i` outside the clamp of 1000, the feedforward beyond a
limit when `ref` is not 0. -/
def overClamp (ref meas i : Int) : State :=
  { running with
    x := ⟨60, BitVec.ofInt 32 ref, BitVec.ofInt 32 meas, 0⟩, pi := { running.pi with integrator := BitVec.ofInt 32 i }
    cfg := { Tunables.reset with uPerRpm := 600000, kiQ15 := 1000, absIntWindowRpm := 500, iClampQ30 := 1000 } }

/-- An integrator within the clamp; and commits from one outside it: not saturated, above the range with a negative and a zero
error, below it with a positive and a zero error. -/
theorem test_witness_IntegratorStaysWithinClamp :
    (running.cmdSrc = .host ∧ ConfigLegal running.cfg ∧ |running.pi.integrator.toInt| ≤ running.cfg.iClampQ30.toInt) ∧
    integrates (overClamp 0 0 5000000) = some 1000 ∧
    integrates (overClamp 2000 2100 5000000) = some 1073742823 ∧ integrates (overClamp 2000 2000 5000000) = some 1073742823 ∧
    integrates (overClamp (-2000) (-2100) (-5000000)) = some (-1073742824) ∧
    integrates (overClamp (-2000) (-2000) (-5000000)) = some (-1073742824) := by decide

theorem test_witness_ProportionalOnlyIdentity :
    let s : State := { running with pi := { running.pi with integrator := 0 } }
    s.cmdSrc = .host ∧ ConfigLegal s.cfg ∧ s.pi.firstCall = false ∧ s.x.now ≠ s.pi.lastMs ∧ s.pi.integrator = 0 ∧
    s.cfg.kiQ15 = 0 ∧ s.cfg.uPerRpm = 0 ∧ s.cfg.errDeadbandRpm = 0 := by decide

theorem test_witness_PiResetClearsController : running.cmdSrc = .host ∧ running.pi ≠ PiState.reset := by decide

theorem test_witness_ActuateWritesComparePair : running.cmdSrc = .host ∧ running.x.u ≠ 0 := by decide

theorem test_witness_ActuateDutyWithinPeriod : running.cmdSrc = .host ∧ running.port.pwmArr.toNat = 999 := by decide

theorem test_witness_ActuateEndsOfRange :
    running.cmdSrc = .host ∧ (0xC0000000 : Word).toInt ≤ -(2 ^ 30) ∧ 2 ^ 30 - 1 ≤ (0x3FFFFFFF : Word).toInt ∧
    (0x3FFFFFFF : Word).toNat ≤ 2 ^ 30 - 1 ∧ 2 ^ 30 ≤ (0x40000000 : Word).toNat := by decide

theorem test_witness_DutySymmetricAndMonotonic :
    ((0 : Int) ≤ 4294967295 ∧ -((2 : Int) ^ 30) < -1073741823 ∧ (1073741823 : Int) ≤ 2 ^ 30 - 1) ∧
    InCtrlRange (-1073741824) ∧ InCtrlRange 1073741823 ∧ |(1073741823 : Int)| ≤ |(-1073741824 : Int)| := by decide

theorem test_witness_HelpersSaturateAsSpecified :
    (-1073741825 : Int) < -(2 ^ 30) ∧ (2 : Int) ^ 30 - 1 < 1073741824 ∧ -((2 : Int) ^ 30) ≤ -1073741824 ∧
    (-32769 : Int) < -32768 ∧ (32767 : Int) < 32768 := by decide

theorem test_witness_DivisionTowardZeroShiftDown : (-2 : Int) ≠ 0 := by decide

/-- The invariant holds of a state with a filled window and a charged integrator. -/
theorem test_witness_IntermediatesFitInSixtyFourBits : Sound running := by decide

theorem test_witness_SoundnessKeptByEveryStep : Sound running ∧ step running = .next (waitIdle running) :=
  ⟨by decide, rfl⟩

theorem test_witness_HardwareResetRestoresEverything :
    ({ running with inbox := [.reset running.port (some ⟨.host, 0x1200000000000000, running.port⟩)] } : State).inbox =
      .reset running.port (some ⟨.host, 0x1200000000000000, running.port⟩) :: [] := rfl

theorem test_witness_PortChangeCausesNothing :
    ({ running with inbox := [.idle ⟨1, 2, 3⟩] } : State).inbox = .idle ⟨1, 2, 3⟩ :: [] ∧ running.inbox = [] := ⟨rfl, rfl⟩

/-- `ACTUATE` changes a compare register of this state. -/
theorem test_witness_CompareRegistersOnlyByActuate :
    step (present .host 0x1300000000000000 running) =
      .next (actuateOp (accept running ⟨.host, 0x1300000000000000, running.port⟩ [])) ∧
    (actuateOp (accept running ⟨.host, 0x1300000000000000, running.port⟩ [])).out.ccrA ≠ running.out.ccrA :=
  ⟨rfl, by decide⟩

/-- `WR EN_SET, 2` changes the enable lines of this state. -/
theorem test_witness_EnableLinesOnlyBySetAndClear :
    ∃ t, step (present .host 0x0223000000000002 running) = .next t ∧ t.out.en ≠ running.out.en := ⟨_, rfl, by decide⟩

/-- `PI_STEP` changes the controller, `VEL_STEP` the estimator. -/
theorem test_witness_PrivateStateOnlyByItsOwner :
    (∃ t, step (present .host 0x1200000000000000 running) = .next t ∧ t.pi ≠ running.pi) ∧
    (∃ t, step (present .host 0x1100000000000000 running) = .next t ∧ t.vel ≠ running.vel) :=
  ⟨⟨_, rfl, by decide⟩, ⟨_, rfl, by decide⟩⟩

/-- `WR KP_Q15, 7` of the debug requester changes the configuration. -/
theorem test_witness_DebugRequesterChangesOnlyConfiguration :
    ∃ t, step (present .debug 0x0210000000000007 running) = .next t ∧ t.cfg ≠ running.cfg := ⟨_, rfl, by decide⟩

/-- Two states that differ in private state only: under `RD`, under `VEL_STEP` with the same estimator, and under `PI_STEP`
with the same controller. -/
theorem test_witness_PrivateStateUnobservable :
    (SamePublic (present .host 0x0103000000000000 running)
      (present .host 0x0103000000000000 { running with pi := PiState.reset, vel := VelState.reset })) ∧
    (SamePublic (present .host 0x1100000000000000 running)
      (present .host 0x1100000000000000 { running with pi := PiState.reset }) ∧
      (0x1100000000000000 : CmdWord) ≠ 0x1200000000000000) ∧
    (SamePublic (present .host 0x1200000000000000 running)
      (present .host 0x1200000000000000 { running with vel := VelState.reset })) ∧
    running.pi ≠ PiState.reset ∧ running.vel ≠ VelState.reset := by decide

theorem test_witness_UnconfiguredCoreCommandsNothing :
    let s : State := { running with
      cfg := State.reset.cfg, pi := { running.pi with integrator := 0, uPrev := 0 }
      vel := { running.vel with velFilt := 0 }, x := { running.x with u := 0 } }
    s.cmdSrc = .host ∧ s.cfg = State.reset.cfg ∧ s.pi.integrator = 0 ∧ s.pi.uPrev = 0 ∧ s.vel.velFilt = 0 ∧ s.x.u = 0 := by
  decide

/-- The call at `NOW = 0` takes a sample, and the next one comes with another time, another counter sample and another window. -/
theorem test_witness_ZeroTimestampUninitialises :
    let s : State := { running with x := { running.x with now := 0 } }
    s.cmdSrc = .host ∧ s.x.now = 0 ∧ s.vel.prevMs ≠ 0 ∧
    let s' : State :=
      { velStepOp s with
        x := { running.x with now := 10 }, port := ⟨10, 300, 999⟩, cfg := { running.cfg with velWindowMs := 0 } }
    s'.cmdSrc = .host ∧ s'.vel = (velStepOp s).vel ∧ s'.x.now ≠ s.x.now ∧ s'.port.encCnt ≠ s.port.encCnt := by decide

/-- Steps back by the least and the greatest number of milliseconds, and by the greatest the cap allows; a step back in a core
with a filled window. -/
theorem test_witness_BackwardStepActsAsLongTime :
    BackwardStep 0 0xFFFFFFFF 1 ∧ BackwardStep 7 8 4294967295 ∧
    let s : State := { running with x := { running.x with now := 45 } }
    s.cmdSrc = .host ∧ EstimatorSound s.vel ∧ s.vel.prevMs ≠ 0 ∧ BackwardStep s.vel.prevMs s.x.now 5 ∧
    BackwardStep s.vel.prevMs (50 - BitVec.ofInt 32 4294901761) 4294901761 ∧ (4294901761 : Int) ≤ 2 ^ 32 - 65535 ∧
    s.cfg.velWindowMs.toNat < 65535 := by decide

end Sys2Proof.Tests
end

section
/-! The active window of the estimator as a list, and the invariants at rest of 10_state.md R38 under each operation on the ring:
pushing a sample, dropping the oldest one, the trim loop, a whole `VEL_STEP`. -/

namespace Sys2Proof.Machine

/-- Total count difference of a list of samples, what `sum_delta_count` holds for the active window (10_state.md R35). -/
def dcTotal (l : List Slot) : Int := (l.map fun sl => sl.dc.toInt).sum

/-- Total time of a list of samples, what `sum_delta_ms` holds for the active window (10_state.md R36). -/
def dmsTotal (l : List Slot) : Nat := (l.map fun sl => sl.dms.toNat).sum

@[simp] theorem dcTotal_cons (sl : Slot) (l : List Slot) : dcTotal (sl :: l) = sl.dc.toInt + dcTotal l := by
  simp [dcTotal]

@[simp] theorem dmsTotal_cons (sl : Slot) (l : List Slot) : dmsTotal (sl :: l) = sl.dms.toNat + dmsTotal l := by
  simp [dmsTotal]

@[simp] theorem dcTotal_append_singleton (l : List Slot) (sl : Slot) : dcTotal (l ++ [sl]) = dcTotal l + sl.dc.toInt := by
  simp [dcTotal]

@[simp] theorem dmsTotal_append_singleton (l : List Slot) (sl : Slot) :
    dmsTotal (l ++ [sl]) = dmsTotal l + sl.dms.toNat := by
  simp [dmsTotal]

/-- A count difference is a 16-bit signed value, so the total is bounded by the number of samples. -/
theorem dcTotal_mem (l : List Slot) : -(32768 * (l.length : Int)) ≤ dcTotal l ∧ dcTotal l ≤ 32768 * l.length := by
  induction l with
  | nil => simp [dcTotal]
  | cons sl l ih =>
    have hlo := BitVec.le_toInt sl.dc
    have hhi := BitVec.toInt_lt (x := sl.dc)
    rw [dcTotal_cons, List.length_cons]
    push_cast
    omega

theorem dmsTotal_le (l : List Slot) : dmsTotal l ≤ 65535 * l.length := by
  induction l with
  | nil => simp [dmsTotal]
  | cons sl l ih =>
    have := sl.dms.isLt
    rw [dmsTotal_cons, List.length_cons]
    omega

@[simp] theorem length_active (v : VelState) : v.active.length = v.filled.toNat := by simp [VelState.active]

/-- The invariants name the two totals. -/
theorem estimatorSound_iff (v : VelState) :
    EstimatorSound v ↔ v.filled.toNat ≤ 32 ∧ v.sumDeltaCount.toInt = dcTotal v.active ∧
      v.sumDeltaMs.toNat = dmsTotal v.active ∧
      (∀ j < 32, v.filled.toNat ≤ j → v.windowSlot j = { dc := 0, dms := 0 }) ∧
      ∀ j < v.filled.toNat, 1 ≤ (v.windowSlot j).dms.toNat := Iff.rfl

/-! The running sums lose the old slot and gain the new one. -/

/-- No wrap in `sum_delta_count` when the exact result fits (40_fixed_point_helpers.md R122). -/
theorem toInt_sub_add_signExtend (sum : Word) (old new : Half)
    (hlo : -2147483648 ≤ sum.toInt - old.toInt + new.toInt) (hhi : sum.toInt - old.toInt + new.toInt ≤ 2147483647) :
    (sum - old.signExtend 32 + new.signExtend 32).toInt = sum.toInt - old.toInt + new.toInt := by
  rw [BitVec.toInt_add, BitVec.toInt_sub, BitVec.toInt_signExtend_of_le (by decide),
    BitVec.toInt_signExtend_of_le (by decide), Int.bmod_add_bmod, Int.bmod_eq_of_le] <;> norm_num <;> omega

/-- No wrap in `sum_delta_ms` when the exact result fits (40_fixed_point_helpers.md R122). -/
theorem toNat_sub_add_setWidth (sum : Word) (old new : Half) (hold : old.toNat ≤ sum.toNat)
    (hhi : sum.toNat - old.toNat + new.toNat < 4294967296) :
    (sum - old.setWidth 32 + new.setWidth 32).toNat = sum.toNat - old.toNat + new.toNat := by
  have := sum.isLt
  have := old.isLt
  have := new.isLt
  simp only [BitVec.toNat_add, BitVec.toNat_sub, BitVec.toNat_setWidth]
  omega

/-! Where the window stands in the ring (10_state.md R37, R38). -/

theorem setWidth_filled (v : VelState) : v.filled.setWidth 5 = BitVec.ofNat 5 v.filled.toNat := by
  apply BitVec.eq_of_toNat_eq
  simp

/-- The slot one past the newest is the next write position. -/
theorem oldest_add_filled (v : VelState) : v.oldest + BitVec.ofNat 5 v.filled.toNat = v.idx := by
  rw [VelState.oldest, setWidth_filled, sub_add_cancel]

theorem windowSlot_filled (v : VelState) : v.windowSlot v.filled.toNat = v.slot v.idx := by
  rw [VelState.windowSlot, oldest_add_filled]

theorem windowSlot_zero (v : VelState) : v.windowSlot 0 = v.slot v.oldest := by
  simp [VelState.windowSlot]

/-- Slot numbers below 32 name different places of the ring. -/
theorem add_ofNat_inj (base : BitVec 5) (i j : Nat) (hi : i < 32) (hj : j < 32) :
    base + BitVec.ofNat 5 i = base + BitVec.ofNat 5 j ↔ i = j := by
  rw [add_right_inj, ← BitVec.toNat_inj, BitVec.toNat_ofNat, BitVec.toNat_ofNat, Nat.mod_eq_of_lt hi, Nat.mod_eq_of_lt hj]

theorem oldest_pushSample (v : VelState) (sample : Slot) (h : v.filled.toNat < 32) :
    (pushSample v sample).oldest = v.oldest := by
  have hf : (pushSample v sample).filled.toNat = v.filled.toNat + 1 := by rw [pushSample_filled_toNat]; omega
  rw [VelState.oldest, VelState.oldest, setWidth_filled, setWidth_filled, hf, pushSample_idx, BitVec.ofNat_add]
  exact add_sub_add_right_eq_sub _ _ _

theorem oldest_dropOldest (v : VelState) (h : 1 ≤ v.filled.toNat) : (dropOldest v).oldest = v.oldest + 1 := by
  obtain ⟨n, hn⟩ := Nat.exists_eq_add_of_le' h
  rw [VelState.oldest, VelState.oldest, setWidth_filled, setWidth_filled, dropOldest_filled_toNat v n hn, hn,
    dropOldest_idx, BitVec.ofNat_add, ← sub_sub]
  exact (sub_add_cancel _ _).symm

/-- While the ring is not full a push puts the sample behind the window and moves nothing. -/
theorem windowSlot_pushSample (v : VelState) (sample : Slot) (h : v.filled.toNat < 32) (j : Nat) (hj : j < 32) :
    (pushSample v sample).windowSlot j = if j = v.filled.toNat then sample else v.windowSlot j := by
  rw [VelState.windowSlot, oldest_pushSample v sample h, slot_pushSample, ← oldest_add_filled]
  simp only [add_ofNat_inj _ _ _ h hj, eq_comm (a := v.filled.toNat), VelState.windowSlot]

/-- A drop shifts the window by one; the dropped slot, zeroed, comes last outside it. -/
theorem windowSlot_dropOldest (v : VelState) (h : 1 ≤ v.filled.toNat) (j : Nat) (hj : j < 32) :
    (dropOldest v).windowSlot j = if j = 31 then { dc := 0, dms := 0 } else v.windowSlot (j + 1) := by
  have hnext : v.oldest + 1 + BitVec.ofNat 5 j = v.oldest + BitVec.ofNat 5 (j + 1) := by
    rw [BitVec.ofNat_add, add_assoc, add_comm 1]
    rfl
  rw [VelState.windowSlot, oldest_dropOldest v h, slot_dropOldest, hnext]
  by_cases hl : j = 31
  · subst hl
    simp
  · have hne : ¬ v.oldest = v.oldest + BitVec.ofNat 5 (j + 1) := by
      have := add_ofNat_inj v.oldest 0 (j + 1) (by decide) (by omega)
      simpa using this
    rw [if_neg hne, if_neg hl, VelState.windowSlot]

theorem active_pushSample (v : VelState) (sample : Slot) (h : v.filled.toNat < 32) :
    (pushSample v sample).active = v.active ++ [sample] := by
  have hf : (pushSample v sample).filled.toNat = v.filled.toNat + 1 := by rw [pushSample_filled_toNat]; omega
  have hold : ∀ j ∈ List.range v.filled.toNat, (pushSample v sample).windowSlot j = v.windowSlot j := by
    intro j hj
    have hlt := List.mem_range.1 hj
    rw [windowSlot_pushSample v sample h j (by omega), if_neg (by omega)]
  rw [VelState.active, hf, List.range_succ, List.map_append, List.map_congr_left hold, VelState.active, List.map_singleton,
    windowSlot_pushSample v sample h _ h, if_pos rfl]

/-- The oldest sample is the head of the window and a drop leaves the tail. -/
theorem active_eq_cons (v : VelState) (h : 1 ≤ v.filled.toNat) (h32 : v.filled.toNat ≤ 32) :
    v.active = v.slot v.oldest :: (dropOldest v).active := by
  obtain ⟨n, hn⟩ := Nat.exists_eq_add_of_le' h
  have htail : ∀ j ∈ List.range n, (dropOldest v).windowSlot j = v.windowSlot (j + 1) := by
    intro j hj
    have hlt := List.mem_range.1 hj
    rw [windowSlot_dropOldest v h j (by omega), if_neg (by omega)]
  rw [VelState.active, VelState.active, hn, dropOldest_filled_toNat v n hn, List.map_congr_left htail, List.range_succ_eq_map,
    List.map_cons, List.map_map, windowSlot_zero]
  rfl

/-- The write position of a full ring is its oldest slot, so a push into a full ring is a drop and then a push. -/
theorem pushSample_of_full (v : VelState) (sample : Slot) (h : v.filled.toNat = 32) :
    pushSample v sample = pushSample (dropOldest v) sample := by
  have hidx : v.oldest = v.idx := by simpa [h] using oldest_add_filled v
  have hzero : (dropOldest v).slot v.idx = { dc := 0, dms := 0 } := by rw [slot_dropOldest, if_pos hidx]
  have hf := dropOldest_filled_toNat v 31 h
  have hring : (pushSample (dropOldest v) sample).ring = (pushSample v sample).ring := by simp [hidx]
  have hcount : (pushSample (dropOldest v) sample).sumDeltaCount = (pushSample v sample).sumDeltaCount := by
    simp [hzero, hidx]
  have hms : (pushSample (dropOldest v) sample).sumDeltaMs = (pushSample v sample).sumDeltaMs := by
    simp [hzero, hidx]
  have hfilled : (pushSample (dropOldest v) sample).filled = (pushSample v sample).filled := by
    rw [pushSample_filled, pushSample_filled, hf, h]
    rfl
  exact (VelState.mk.injEq ..).mpr ⟨rfl, rfl, hring.symm, hcount.symm, hms.symm, rfl, hfilled.symm, rfl⟩

/-! The invariants. -/

theorem EstimatorSound.dropOldest {v : VelState} (hv : EstimatorSound v) (h : 1 ≤ v.filled.toNat) :
    EstimatorSound (dropOldest v) := by
  obtain ⟨h32, hdc, hdms, hout, hin⟩ := (estimatorSound_iff v).1 hv
  obtain ⟨n, hn⟩ := Nat.exists_eq_add_of_le' h
  have hf := dropOldest_filled_toNat v n hn
  have hbound := dcTotal_mem (Machine.dropOldest v).active
  rw [active_eq_cons v h h32, dcTotal_cons] at hdc
  rw [active_eq_cons v h h32, dmsTotal_cons] at hdms
  rw [length_active, hf] at hbound
  refine (estimatorSound_iff _).2 ⟨by omega, ?_, ?_, ?_, ?_⟩
  · have hz : (0 : Half).toInt = 0 := rfl
    rw [dropOldest_sumDeltaCount, toInt_sub_add_signExtend] <;> omega
  · have hz : (0 : Half).toNat = 0 := rfl
    have := v.sumDeltaMs.isLt
    rw [dropOldest_sumDeltaMs, toNat_sub_add_setWidth] <;> omega
  · intro j hj hnj
    rw [windowSlot_dropOldest v h j hj]
    split
    · rfl
    · exact hout (j + 1) (by omega) (by omega)
  · intro j hj
    rw [windowSlot_dropOldest v h j (by omega), if_neg (by omega)]
    exact hin (j + 1) (by omega)

/-- A push while the ring is not full: the replaced slot is outside the window, hence zero. -/
theorem EstimatorSound.pushSample_of_lt {v : VelState} {sample : Slot} (hv : EstimatorSound v)
    (h : v.filled.toNat < 32) (hs : 1 ≤ sample.dms.toNat) : EstimatorSound (pushSample v sample) := by
  obtain ⟨-, hdc, hdms, hout, hin⟩ := (estimatorSound_iff v).1 hv
  have hf : (Machine.pushSample v sample).filled.toNat = v.filled.toNat + 1 := by rw [pushSample_filled_toNat]; omega
  have hzero : v.slot v.idx = { dc := 0, dms := 0 } := by rw [← windowSlot_filled]; exact hout _ h le_rfl
  have hbound := dcTotal_mem v.active
  have hle := dmsTotal_le v.active
  rw [length_active] at hbound hle
  refine (estimatorSound_iff _).2 ⟨by omega, ?_, ?_, ?_, ?_⟩
  · have hz : ({ dc := 0, dms := 0 } : Slot).dc.toInt = 0 := rfl
    have hlo := BitVec.le_toInt sample.dc
    have hhi := BitVec.toInt_lt (x := sample.dc)
    rw [active_pushSample v sample h, dcTotal_append_singleton, pushSample_sumDeltaCount, hzero,
      toInt_sub_add_signExtend] <;> omega
  · have hz : ({ dc := 0, dms := 0 } : Slot).dms.toNat = 0 := rfl
    have := sample.dms.isLt
    rw [active_pushSample v sample h, dmsTotal_append_singleton, pushSample_sumDeltaMs, hzero,
      toNat_sub_add_setWidth] <;> omega
  · intro j hj hnj
    rw [windowSlot_pushSample v sample h j hj, if_neg (by omega)]
    exact hout j hj (by omega)
  · intro j hj
    rw [windowSlot_pushSample v sample h j (by omega)]
    split
    · exact hs
    · exact hin j (by omega)

theorem EstimatorSound.pushSample {v : VelState} {sample : Slot} (hv : EstimatorSound v) (hs : 1 ≤ sample.dms.toNat) :
    EstimatorSound (pushSample v sample) := by
  obtain h | h := Nat.lt_or_eq_of_le hv.1
  · exact hv.pushSample_of_lt h hs
  · rw [pushSample_of_full v sample h]
    have hf := dropOldest_filled_toNat v 31 h
    exact (hv.dropOldest (by omega)).pushSample_of_lt (by omega) hs

theorem EstimatorSound.trimLoop {v : VelState} (hv : EstimatorSound v) (window : Word) (passes : Nat) :
    EstimatorSound (trimLoop window passes v) := by
  induction passes generalizing v with
  | zero => exact hv
  | succ passes ih =>
    rw [Machine.trimLoop]
    split
    · rename_i hn
      obtain ⟨-, hfilled⟩ := (needsTrim_iff window v).1 hn
      exact ih (hv.dropOldest hfilled.le)
    · exact hv

/-- Only the ring, the sums, `idx` and `filled` matter to the invariants. -/
theorem EstimatorSound.congr {v w : VelState} (hv : EstimatorSound v) (hring : w.ring = v.ring)
    (hcount : w.sumDeltaCount = v.sumDeltaCount) (hms : w.sumDeltaMs = v.sumDeltaMs) (hidx : w.idx = v.idx)
    (hfilled : w.filled = v.filled) : EstimatorSound w := by
  cases v
  cases w
  cases hring; cases hcount; cases hms; cases hidx; cases hfilled
  exact hv

theorem capMs_pos (d : Word) (h : d ≠ 0) : 1 ≤ (capMs d).toNat := by
  have : d.toNat ≠ 0 := fun e => h (BitVec.eq_of_toNat_eq e)
  rw [capMs, BitVec.toNat_ofNat]
  omega

theorem EstimatorSound.takeSample {v : VelState} (hv : EstimatorSound v) (cfg : Tunables) (now : Word) (cnt : Half)
    (h : now ≠ v.prevMs) : EstimatorSound (takeSample cfg now cnt v) := by
  have hlatched : EstimatorSound { v with prevCount := cnt, prevMs := now } := hv.congr rfl rfl rfl rfl rfl
  exact (hlatched.pushSample (capMs_pos _ (fun e => h ((elapsedMs_eq_zero _ _).1 e)))).trimLoop _ _

theorem EstimatorSound.velEstimate {v : VelState} (hv : EstimatorSound v) (cfg : Tunables) (now : Word) (cnt : Half) :
    EstimatorSound (velEstimate cfg now cnt v).1 := by
  obtain ⟨-, he⟩ | ⟨-, -, he⟩ | ⟨-, hne, he⟩ := velEstimate_cases cfg now cnt v <;> rw [he]
  · exact hv.congr rfl rfl rfl rfl rfl
  · exact hv
  · rw [updateFilter_eq]
    exact (hv.takeSample cfg now cnt hne).congr rfl rfl rfl rfl rfl

theorem estimatorSound_reset : EstimatorSound VelState.reset := by decide

/-! When the trim loop stops (41_velocity_estimator.md R137). -/

/-- With as many passes as the window has samples beyond the first, the loop ends because its condition fails. -/
theorem needsTrim_trimLoop (window : Word) (passes : Nat) (v : VelState) (h : v.filled.toNat ≤ passes + 1) :
    needsTrim window (trimLoop window passes v) = false := by
  induction passes generalizing v with
  | zero =>
    rw [trimLoop, Bool.eq_false_iff, ne_eq, needsTrim_iff]
    omega
  | succ passes ih =>
    rw [trimLoop]
    cases hn : needsTrim window v with
    | false => simpa using hn
    | true =>
      obtain ⟨-, hfilled⟩ := (needsTrim_iff window v).1 hn
      obtain ⟨n, hf⟩ := Nat.exists_eq_add_of_le' hfilled.le
      simpa using ih (dropOldest v) (by rw [dropOldest_filled_toNat v n hf]; omega)

/-- The loop never empties the window. -/
theorem trimLoop_filled_pos (window : Word) (passes : Nat) (v : VelState) (h : 1 ≤ v.filled.toNat) :
    1 ≤ (trimLoop window passes v).filled.toNat := by
  induction passes generalizing v with
  | zero => exact h
  | succ passes ih =>
    rw [trimLoop]
    split
    · rename_i hn
      obtain ⟨-, hfilled⟩ := (needsTrim_iff window v).1 hn
      obtain ⟨n, hf⟩ := Nat.exists_eq_add_of_le' h
      exact ih _ (by rw [dropOldest_filled_toNat v n hf]; omega)
    · exact h

theorem trim_window (window : Word) (v : VelState) (h : 1 ≤ v.filled.toNat) :
    (trim window v).sumDeltaMs.toNat ≤ window.toNat ∨ (trim window v).filled = 1 := by
  have hstop := needsTrim_trimLoop window v.filled.toNat v (Nat.le_succ _)
  have hpos := trimLoop_filled_pos window v.filled.toNat v h
  rw [← Bool.not_eq_true, needsTrim_iff, ← trim] at hstop
  rw [← trim] at hpos
  by_cases hw : window.toNat < (trim window v).sumDeltaMs.toNat
  · have hone : (trim window v).filled.toNat = 1 := by omega
    exact .inr (BitVec.eq_of_toNat_eq hone)
  · exact .inl (not_lt.1 hw)

theorem takeSample_window (cfg : Tunables) (now : Word) (cnt : Half) (v : VelState) :
    (takeSample cfg now cnt v).sumDeltaMs.toNat ≤ cfg.velWindowMs.toNat ∨ (takeSample cfg now cnt v).filled = 1 :=
  trim_window _ _ (by rw [pushSample_filled_toNat]; omega)

end Sys2Proof.Machine
end

section
/-! The integrator and the last result of the controller under an invocation (10_state.md R31, 43_pi_controller.md R192). -/

namespace Sys2Proof.Machine

/-- The integrator of a full step is the one before it, or a candidate within the clamp and the control range. -/
theorem piFull_integrator (cfg : Tunables) (ref meas : Int) (deltaMs : Word) (i : Int) (h : 0 ≤ cfg.iClampQ30.toInt) :
    (piFull cfg ref meas deltaMs i).1 = i ∨
      |(piFull cfg ref meas deltaMs i).1| ≤ cfg.iClampQ30.toInt ∧ InCtrlRange (piFull cfg ref meas deltaMs i).1 := by
  simp only [piFull]
  generalize piErrQ15 cfg (piErr cfg ref meas) = q
  obtain hc | hc := piCommit_cases (piFf cfg ref + piP cfg q +
    piICand cfg (piErr cfg ref meas) q (piWindow cfg ref) deltaMs i) q
    (piICand cfg (piErr cfg ref meas) q (piWindow cfg ref) deltaMs i) i
  · rw [hc]
    obtain ⟨-, hi⟩ | ⟨-, habs, hlo, hhi⟩ := piICand_cases cfg (piErr cfg ref meas) q (piWindow cfg ref) deltaMs i h
    · exact .inl hi
    · exact .inr ⟨habs, hlo, hhi⟩
  · exact .inl hc

/-- Outside the two cells of the table that hold, the candidate is committed (43_pi_controller.md R192). -/
theorem piCommit_of_not_deepens (uCand errQ15 iCand i : Int) (hhi : ¬ (ctrlMax < uCand ∧ 0 < errQ15))
    (hlo : ¬ (uCand < ctrlMin ∧ errQ15 < 0)) : piCommit uCand errQ15 iCand i = iCand := by
  have hd : ¬ deepensSaturation uCand errQ15 = true := by
    simp only [deepensSaturation, Bool.or_eq_true, Bool.and_eq_true, decide_eq_true_eq]
    exact not_or.2 ⟨hhi, hlo⟩
  rw [piCommit, if_neg hd, ite_self]

theorem bits32_toInt_of_inCtrlRange (v : Int) (h : InCtrlRange v) : (bits32 v).toInt = v :=
  bits32_toInt v (by omega) (by omega)

theorem bits32_toInt_self (w : Word) : bits32 w.toInt = w := BitVec.ofInt_toInt

theorem piFull_result_inCtrlRange (cfg : Tunables) (ref meas : Int) (deltaMs : Word) (i : Int) :
    InCtrlRange (piFull cfg ref meas deltaMs i).2 :=
  satCtrl_mem _

/-- The integrator after an invocation is the one before it, or within the clamp and the control range. -/
theorem piControl_integrator (cfg : Tunables) (ref meas now : Word) (p : PiState) (h : 0 ≤ cfg.iClampQ30.toInt) :
    (piControl cfg ref meas now p).1.integrator = p.integrator ∨
      |(piControl cfg ref meas now p).1.integrator.toInt| ≤ cfg.iClampQ30.toInt ∧
        InCtrlRange (piControl cfg ref meas now p).1.integrator.toInt := by
  obtain ⟨-, he⟩ | ⟨-, -, he⟩ | ⟨-, -, he⟩ := piControl_cases cfg ref meas now p <;> rw [he]
  · exact .inl rfl
  · exact .inl rfl
  · obtain hi | ⟨habs, hrange⟩ :=
      piFull_integrator cfg ref.toInt meas.toInt (elapsedMs now p.lastMs) p.integrator.toInt h
    · exact .inl (by simp only [hi, bits32_toInt_self])
    · exact .inr (by simp only [bits32_toInt_of_inCtrlRange _ hrange]; exact ⟨habs, hrange⟩)

theorem piControl_uPrev (cfg : Tunables) (ref meas now : Word) (p : PiState) (h : InCtrlRange p.uPrev.toInt) :
    InCtrlRange (piControl cfg ref meas now p).1.uPrev.toInt := by
  obtain ⟨-, he⟩ | ⟨-, -, he⟩ | ⟨-, -, he⟩ := piControl_cases cfg ref meas now p <;> rw [he]
  · exact (by decide : InCtrlRange (0 : Word).toInt)
  · exact h
  · have hu := piFull_result_inCtrlRange cfg ref.toInt meas.toInt (elapsedMs now p.lastMs) p.integrator.toInt
    simpa only [bits32_toInt_of_inCtrlRange _ hu] using hu

theorem ControllerSound.piControl {p : PiState} (hp : ControllerSound p) (cfg : Tunables) (ref meas now : Word)
    (h : 0 ≤ cfg.iClampQ30.toInt) : ControllerSound (piControl cfg ref meas now p).1 := by
  obtain ⟨hi, hu⟩ := hp
  refine ⟨?_, piControl_uPrev cfg ref meas now p hu⟩
  obtain he | ⟨-, hrange⟩ := piControl_integrator cfg ref meas now p h
  · rwa [he]
  · exact hrange

theorem controllerSound_reset : ControllerSound PiState.reset := by decide

theorem ConfigLegal.iClampQ30_nonneg {c : Tunables} (h : ConfigLegal c) : 0 ≤ c.iClampQ30.toInt := by
  obtain ⟨-, -, -, -, -, -, hclamp, -⟩ := h
  exact hclamp

theorem configLegal_reset : ConfigLegal Tunables.reset := by decide

/-- A legal value keeps the configuration legal, whichever register it is written to (45_register_access.md R236). -/
theorem ConfigLegal.writeReg {s t : State} {r : Reg} {v : Word} (h : ConfigLegal s.cfg) (hw : writeReg r v s = some t)
    (hl : r.legal v = true) : ConfigLegal t.cfg := by
  have ⟨hkp, hki, hscale, hdead, hpct, hwin, hclamp, hppr⟩ := h
  cases r
  case kpQ15 => cases hw; exact ⟨by simpa [Reg.legal] using hl, hki, hscale, hdead, hpct, hwin, hclamp, hppr⟩
  case kiQ15 => cases hw; exact ⟨hkp, by simpa [Reg.legal] using hl, hscale, hdead, hpct, hwin, hclamp, hppr⟩
  case rpmScale => cases hw; exact ⟨hkp, hki, by simpa [Reg.legal] using hl, hdead, hpct, hwin, hclamp, hppr⟩
  case errDeadbandRpm => cases hw; exact ⟨hkp, hki, hscale, by simpa [Reg.legal] using hl, hpct, hwin, hclamp, hppr⟩
  case intWindowPct => cases hw; exact ⟨hkp, hki, hscale, hdead, by simpa [Reg.legal] using hl, hwin, hclamp, hppr⟩
  case absIntWindowRpm => cases hw; exact ⟨hkp, hki, hscale, hdead, hpct, by simpa [Reg.legal] using hl, hclamp, hppr⟩
  case iClampQ30 => cases hw; exact ⟨hkp, hki, hscale, hdead, hpct, hwin, by simpa [Reg.legal] using hl, hppr⟩
  case encoderPpr => cases hw; exact ⟨hkp, hki, hscale, hdead, hpct, hwin, hclamp, by simpa [Reg.legal] using hl⟩
  all_goals cases hw <;> exact h

end Sys2Proof.Machine
end

section
/-! The words of the commands: a word that decodes is the encoding of its command (30_encoding.md R85). -/

namespace Sys2Proof

theorem wordOf_fieldsOf (w : CmdWord) :
    wordOf (fieldsOf w).op (fieldsOf w).addr (fieldsOf w).rsv (fieldsOf w).data = w := by
  simp only [wordOf, fieldsOf]
  rw [BitVec.extractLsb'_append_extractLsb'_eq_extractLsb' (by rfl), BitVec.extractLsb'_append_extractLsb'_eq_extractLsb' (by rfl),
    BitVec.extractLsb'_append_extractLsb'_eq_extractLsb' (by rfl)]
  exact BitVec.extractLsb'_eq_self

theorem encode_eq_wordOf_fields (i : Instr) :
    encode i = wordOf i.fields.op i.fields.addr i.fields.rsv i.fields.data := by
  cases i <;> rfl

theorem decodeN_eq_ok (f : Fields) (i j : Instr) (h : decodeN f i = .ok j) : f.addr = 0 ∧ f.data = 0 ∧ j = i := by
  unfold decodeN at h
  split_ifs at h with ha hd
  cases h
  exact ⟨not_not.1 ha, not_not.1 hd, rfl⟩

/-- The fields of a legal word are those of its command (30_encoding.md R82, R83). -/
theorem fields_of_decodeFields (f : Fields) (i : Instr) (h : decodeFields f = .ok i) : f = i.fields := by
  obtain ⟨op, addr, rsv, data⟩ := f
  unfold decodeFields at h
  by_cases hrsv : rsv = 0
  case neg =>
    rw [if_pos hrsv] at h
    cases h
  subst hrsv
  rw [if_neg (not_not.2 rfl)] at h
  split at h
  case h_1 hop =>
    obtain rfl : op = 0x01 := BitVec.eq_of_toNat_eq hop
    split_ifs at h with hd
    obtain rfl : data = 0 := not_not.1 hd
    cases h
    rfl
  case h_2 hop =>
    obtain rfl : op = 0x02 := BitVec.eq_of_toNat_eq hop
    cases h
    rfl
  case h_9 => cases h
  all_goals
    rename_i hop
    obtain ⟨rfl, rfl, rfl⟩ := decodeN_eq_ok _ _ _ h
    refine congrArg (fun o => Fields.mk o 0 0 0) (BitVec.eq_of_toNat_eq ?_)
    exact hop

theorem fieldsOf_of_decode {w : CmdWord} {i : Instr} (h : decode w = .ok i) : fieldsOf w = i.fields :=
  fields_of_decodeFields _ _ h

theorem encode_of_decode {w : CmdWord} {i : Instr} (h : decode w = .ok i) : encode i = w := by
  rw [encode_eq_wordOf_fields, ← fieldsOf_of_decode h, wordOf_fieldsOf]

end Sys2Proof
end

section
/-! What a command and a step keep of the whole machine: the invariant of Safety.lean, the outputs (10_state.md R55, R56), and
what two states that differ in hidden state alone still have in common (R58). -/

namespace Sys2Proof.Machine

theorem velStepOp_vel (s : State) : (velStepOp s).vel = (velEstimate s.cfg s.x.now s.port.encCnt s.vel).1 := rfl

theorem piStepOp_pi (s : State) : (piStepOp s).pi = (piControl s.cfg s.x.ref s.x.meas s.x.now s.pi).1 := rfl

/-- Only `cfg`, `pi` and `vel` matter to the invariant. -/
theorem Sound.congr {s t : State} (hs : Sound s) (hcfg : t.cfg = s.cfg) (hpi : t.pi = s.pi) (hvel : t.vel = s.vel) :
    Sound t := by
  rwa [Sound, hcfg, hpi, hvel]

theorem Sound.exec {s t : State} {i : Instr} (hs : Sound s) (h : exec i s = .next t) : Sound t := by
  have ⟨hcfg, hpi, hvel⟩ := hs
  obtain ⟨code, -, rfl⟩ | ⟨r, v, -, -, -, rfl⟩ | ⟨r, v, t', -, -, hw, hl, rfl⟩ | ⟨-, hop⟩ := exec_cases i s t h
  · exact hs.congr rfl rfl rfl
  · exact hs.congr rfl rfl rfl
  · obtain ⟨hpi', hvel', -⟩ := writeReg_frame r v s t' hw
    have hcfg' : ConfigLegal t'.cfg := hcfg.writeReg hw hl
    exact ⟨hcfg', by rwa [respond_pi, hpi'], by rwa [respond_vel, hvel']⟩
  · obtain ⟨-, rfl⟩ | ⟨-, rfl⟩ | ⟨-, rfl⟩ | ⟨-, rfl⟩ | ⟨-, rfl⟩ | ⟨-, rfl⟩ := hop
    · exact hs.congr rfl rfl rfl
    · exact ⟨hcfg, hpi, hvel.velEstimate s.cfg s.x.now s.port.encCnt⟩
    · exact ⟨hcfg, hpi.piControl s.cfg s.x.ref s.x.meas s.x.now hcfg.iClampQ30_nonneg, hvel⟩
    · exact hs.congr rfl rfl rfl
    · exact ⟨hcfg, controllerSound_reset, hvel⟩
    · exact ⟨hcfg, hpi, estimatorSound_reset⟩

theorem Sound.step {s t : State} (hs : Sound s) (h : step s = .next t) : Sound t := by
  obtain ⟨-, rfl⟩ | ⟨port, rest, -, rfl⟩ | ⟨port, inProgress, rest, -, rfl⟩ | ⟨c, rest, -, hc⟩ := step_cases s t h
  · exact hs.congr rfl rfl rfl
  · exact hs.congr rfl rfl rfl
  · exact ⟨configLegal_reset, controllerSound_reset, estimatorSound_reset⟩
  · have haccept : Sound (accept s c rest) := hs.congr rfl rfl rfl
    obtain ⟨e, -, rfl⟩ | ⟨i, -, he⟩ := hc
    · exact haccept.congr rfl rfl rfl
    · exact haccept.exec he

/-! The outputs. -/

/-- A command other than the host's `ACTUATE` keeps both compare registers. -/
theorem exec_ccr {s t : State} {i : Instr} (h : exec i s = .next t) :
    (t.out.ccrA = s.out.ccrA ∧ t.out.ccrB = s.out.ccrB) ∨ (s.cmdSrc = .host ∧ i = .actuate) := by
  obtain ⟨code, -, rfl⟩ | ⟨r, v, -, -, -, rfl⟩ | ⟨r, v, t', -, -, hw, -, rfl⟩ | ⟨hsrc, hop⟩ := exec_cases i s t h
  · exact .inl ⟨rfl, rfl⟩
  · exact .inl ⟨rfl, rfl⟩
  · obtain ⟨-, -, -, -, -, -, -, hA, hB⟩ := writeReg_frame r v s t' hw
    exact .inl ⟨hA, hB⟩
  · obtain ⟨-, rfl⟩ | ⟨-, rfl⟩ | ⟨-, rfl⟩ | ⟨hi, -⟩ | ⟨-, rfl⟩ | ⟨-, rfl⟩ := hop
    · exact .inl ⟨rfl, rfl⟩
    · exact .inl ⟨rfl, rfl⟩
    · exact .inl ⟨rfl, rfl⟩
    · exact .inr ⟨hsrc, hi⟩
    · exact .inl ⟨rfl, rfl⟩
    · exact .inl ⟨rfl, rfl⟩

theorem writeReg_en {s t : State} {r : Reg} {v : Word} (h : writeReg r v s = some t) :
    t.out.en = s.out.en ∨ r = .enSet ∨ r = .enClr := by
  cases r
  case enSet => exact .inr (.inl rfl)
  case enClr => exact .inr (.inr rfl)
  all_goals cases h <;> exact .inl rfl

/-- A command other than the host's `WR` to the set or clear register keeps the enable lines. -/
theorem exec_en {s t : State} {i : Instr} (h : exec i s = .next t) :
    t.out.en = s.out.en ∨
      (s.cmdSrc = .host ∧ ∃ r v, (r = Reg.enSet ∨ r = Reg.enClr) ∧ i = .wr r.addr v) := by
  obtain ⟨code, -, rfl⟩ | ⟨r, v, -, -, -, rfl⟩ | ⟨r, v, t', hi, hm, hw, -, rfl⟩ | ⟨-, hop⟩ := exec_cases i s t h
  · exact .inl rfl
  · exact .inl rfl
  · obtain hen | hr := writeReg_en hw
    · exact .inl hen
    · refine .inr ⟨?_, r, v, hr, hi⟩
      cases hsrc : s.cmdSrc with
      | host => rfl
      | debug =>
        rw [hsrc, mayReach_debug] at hm
        obtain rfl | rfl := hr <;> cases hm
  · obtain ⟨-, rfl⟩ | ⟨-, rfl⟩ | ⟨-, rfl⟩ | ⟨-, rfl⟩ | ⟨-, rfl⟩ | ⟨-, rfl⟩ := hop <;> exact .inl rfl

/-- A step that changes the outputs runs a command that changes them, or is a hardware reset. -/
theorem step_out {s t : State} (h : step s = .next t) :
    t.out = s.out ∨ (∃ port inProgress rest, s.inbox = .reset port inProgress :: rest) ∨
      ∃ c rest i, s.inbox = .command c :: rest ∧ decode c.word = .ok i ∧ exec i (accept s c rest) = .next t := by
  obtain ⟨-, rfl⟩ | ⟨port, rest, -, rfl⟩ | ⟨port, inProgress, rest, hin, -⟩ | ⟨c, rest, hin, hc⟩ := step_cases s t h
  · exact .inl rfl
  · exact .inl rfl
  · exact .inr (.inl ⟨port, inProgress, rest, hin⟩)
  · obtain ⟨e, -, rfl⟩ | ⟨i, hd, he⟩ := hc
    · exact .inl rfl
    · exact .inr (.inr ⟨c, rest, i, hin, hd, he⟩)

/-! Hidden state: the controller and the estimator, which no address reaches. -/

/-- The state with another controller and another estimator (10_state.md R58). -/
def State.withPrivate (s : State) (p : PiState) (v : VelState) : State := { s with pi := p, vel := v }

@[simp] theorem withPrivate_cmdSrc (s : State) (p : PiState) (v : VelState) : (s.withPrivate p v).cmdSrc = s.cmdSrc := rfl

theorem samePublic_withPrivate (s : State) (p : PiState) (v : VelState) : SamePublic s (s.withPrivate p v) :=
  ⟨rfl, rfl, rfl, rfl, rfl, rfl, rfl, rfl⟩

/-- States with the same public state differ in hidden state alone. -/
theorem SamePublic.eq_withPrivate {s s' : State} (h : SamePublic s s') : s' = s.withPrivate s'.pi s'.vel := by
  obtain ⟨hx, hcfg, hout, hport, hsrc, hrst, hrsp, hinbox⟩ := h
  cases s
  cases s'
  cases hx; cases hcfg; cases hout; cases hport; cases hsrc; cases hrst; cases hrsp; cases hinbox
  rfl

theorem readReg_withPrivate (r : Reg) (s : State) (p : PiState) (v : VelState) :
    readReg r (s.withPrivate p v) = readReg r s := by
  cases r <;> rfl

theorem writeReg_withPrivate (r : Reg) (d : Word) (s : State) (p : PiState) (v : VelState) :
    writeReg r d (s.withPrivate p v) = (writeReg r d s).map (·.withPrivate p v) := by
  cases r <;> rfl

/-- Two outcomes answer states that differ in hidden state alone, and in the controller or the estimator only where `s` and
`s'` do. -/
def StaysApart (s s' : State) (o o' : Host.Outcome State Fault Refusal) : Prop :=
  ∃ t t', o = .next t ∧ o' = .next t' ∧ SamePublic t t' ∧ (s.pi = s'.pi → t.pi = t'.pi) ∧ (s.vel = s'.vel → t.vel = t'.vel)

/-- A next state formed without regard to hidden state, which it keeps. -/
theorem staysApart_of_kept (s t : State) (p : PiState) (v : VelState) (hpi : t.pi = s.pi) (hvel : t.vel = s.vel) :
    StaysApart s (s.withPrivate p v) (.next t) (.next (t.withPrivate p v)) :=
  ⟨t, _, rfl, rfl, samePublic_withPrivate t p v, fun h => hpi.trans h, fun h => hvel.trans h⟩

theorem staysApart_respond (s t : State) (p : PiState) (v : VelState) (st : Status) (d : Word) (hpi : t.pi = s.pi)
    (hvel : t.vel = s.vel) :
    StaysApart s (s.withPrivate p v) (.next (respond t st d)) (.next (respond (t.withPrivate p v) st d)) :=
  staysApart_of_kept s (respond t st d) p v hpi hvel

theorem staysApart_cmdError (s : State) (p : PiState) (v : VelState) (code : Status) :
    StaysApart s (s.withPrivate p v) (.next (cmdError s code)) (.next (cmdError (s.withPrivate p v) code)) :=
  staysApart_respond s s p v code 0 rfl rfl

/-- `RD` reads no hidden state. -/
theorem execRd_staysApart (a : Addr) (s : State) (p : PiState) (v : VelState) :
    StaysApart s (s.withPrivate p v) (execRd a s) (execRd a (s.withPrivate p v)) := by
  simp only [execRd, readReg_withPrivate, withPrivate_cmdSrc]
  cases Reg.ofAddr a with
  | none => exact staysApart_cmdError s p v _
  | some r =>
    cases hm : mayReach s.cmdSrc r with
    | false => simpa [hm] using staysApart_cmdError s p v .access
    | true =>
      cases hr : readReg r s with
      | none => simpa [hm, hr] using staysApart_cmdError s p v .access
      | some d => simpa [hm, hr] using staysApart_respond s s p v .ok d rfl rfl

/-- `WR` reads and writes no hidden state. -/
theorem execWr_staysApart (a : Addr) (d : Word) (s : State) (p : PiState) (v : VelState) :
    StaysApart s (s.withPrivate p v) (execWr a d s) (execWr a d (s.withPrivate p v)) := by
  simp only [execWr, writeReg_withPrivate, withPrivate_cmdSrc]
  cases Reg.ofAddr a with
  | none => exact staysApart_cmdError s p v _
  | some r =>
    cases hm : mayReach s.cmdSrc r with
    | false => simpa [hm] using staysApart_cmdError s p v .access
    | true =>
      cases hw : writeReg r d s with
      | none => simpa [hm, hw] using staysApart_cmdError s p v .access
      | some t =>
        cases hl : r.legal d with
        | false => simpa [hm, hw, hl] using staysApart_cmdError s p v .value
        | true =>
          obtain ⟨hpi, hvel, -⟩ := writeReg_frame r d s t hw
          simpa [hm, hw, hl] using staysApart_respond s t p v .ok 0 hpi hvel

/-- An operation the debug requester is refused has to be looked at for the host only. -/
theorem hostOnly_staysApart (s : State) (p : PiState) (v : VelState) (op : State → State)
    (h : StaysApart s (s.withPrivate p v) (.next (op s)) (.next (op (s.withPrivate p v)))) :
    StaysApart s (s.withPrivate p v) (.next (hostOnly s op)) (.next (hostOnly (s.withPrivate p v) op)) := by
  cases hsrc : s.cmdSrc with
  | host => rwa [hostOnly_host s op hsrc, hostOnly_host (s.withPrivate p v) op hsrc]
  | debug =>
    rw [hostOnly_debug s op hsrc, hostOnly_debug (s.withPrivate p v) op hsrc]
    exact staysApart_cmdError s p v _

/-- What each command makes of hidden state: `VEL_STEP` and `PI_STEP` answer from their own, every other one from none. -/
theorem exec_staysApart (i : Instr) (s : State) (p : PiState) (v : VelState) (hvel : i = .velStep → s.vel = v)
    (hpi : i = .piStep → s.pi = p) : StaysApart s (s.withPrivate p v) (exec i s) (exec i (s.withPrivate p v)) := by
  cases i with
  | rd a => exact execRd_staysApart a s p v
  | wr a d => exact execWr_staysApart a d s p v
  | getMs => exact hostOnly_staysApart s p v _ (staysApart_of_kept s (getMsOp s) p v rfl rfl)
  | velStep =>
    obtain rfl := hvel rfl
    exact hostOnly_staysApart s p _ _
      ⟨velStepOp s, (velStepOp s).withPrivate p (velStepOp s).vel, rfl, rfl, samePublic_withPrivate _ _ _, id, fun _ => rfl⟩
  | piStep =>
    obtain rfl := hpi rfl
    exact hostOnly_staysApart s _ v _
      ⟨piStepOp s, (piStepOp s).withPrivate (piStepOp s).pi v, rfl, rfl, samePublic_withPrivate _ _ _, fun _ => rfl, id⟩
  | actuate => exact hostOnly_staysApart s p v _ (staysApart_of_kept s (actuateOp s) p v rfl rfl)
  | piReset =>
    exact hostOnly_staysApart s p v _
      ⟨piResetOp s, (piResetOp s).withPrivate PiState.reset v, rfl, rfl, samePublic_withPrivate _ _ _, fun _ => rfl, id⟩
  | velReset =>
    exact hostOnly_staysApart s p v _
      ⟨velResetOp s, (velResetOp s).withPrivate p VelState.reset, rfl, rfl, samePublic_withPrivate _ _ _, id, fun _ => rfl⟩

theorem runWord_staysApart (w : CmdWord) (s : State) (p : PiState) (v : VelState)
    (hvel : w = encode .velStep → s.vel = v) (hpi : w = encode .piStep → s.pi = p) :
    StaysApart s (s.withPrivate p v) (runWord w s) (runWord w (s.withPrivate p v)) := by
  unfold runWord
  cases hd : decode w with
  | error e => exact staysApart_cmdError s p v _
  | ok i =>
    have hw : encode i = w := encode_of_decode hd
    exact exec_staysApart i s p v (fun hi => hvel (by rw [← hw, hi])) (fun hi => hpi (by rw [← hw, hi]))

/-- Every event of the outside, with the premise on the two commands that show hidden state. -/
theorem step_staysApart (s : State) (p : PiState) (v : VelState)
    (hvel : ∀ c rest, s.inbox = .command c :: rest → c.word = encode .velStep → s.vel = v)
    (hpi : ∀ c rest, s.inbox = .command c :: rest → c.word = encode .piStep → s.pi = p) :
    StaysApart s (s.withPrivate p v) (step s) (step (s.withPrivate p v)) := by
  have hin : (s.withPrivate p v).inbox = s.inbox := rfl
  unfold step
  rw [hin]
  match hs : s.inbox with
  | [] => exact staysApart_of_kept s (waitIdle s) p v rfl rfl
  | .idle port :: rest => exact staysApart_of_kept s (idleAt s port rest) p v rfl rfl
  | .reset port _ :: rest =>
    exact ⟨_, _, rfl, rfl, ⟨rfl, rfl, rfl, rfl, rfl, rfl, rfl, rfl⟩, fun _ => rfl, fun _ => rfl⟩
  | .command c :: rest => exact runWord_staysApart c.word (accept s c rest) p v (hvel c rest hs) (hpi c rest hs)

end Sys2Proof.Machine
end

section
/-! The obligations on the state (10_state.md). -/

namespace Sys2Proof.Machine

/-- Settles O49: the invariant is inductive as it stands. -/
theorem soundnessKeptByEveryStep : Obligations.SoundnessKeptByEveryStep := fun _ _ hs h => hs.step h

/-- Settles O26: a sample goes through the trim loop, which stops for one of the two reasons; the filter touches neither. -/
theorem velStepRespectsWindow : Obligations.VelStepRespectsWindow := by
  intro s hsrc _ hprev hnow
  obtain ⟨-, hexec, -⟩ := exec_host s hsrc
  refine ⟨velStepOp s, hexec, ?_⟩
  obtain ⟨h, -⟩ | ⟨-, h, -⟩ | ⟨-, -, he⟩ := velEstimate_cases s.cfg s.x.now s.port.encCnt s.vel
  · exact absurd h hprev
  · exact absurd h hnow
  · rw [velStepOp_vel, he, updateFilter_eq]
    exact takeSample_window s.cfg s.x.now s.port.encCnt s.vel

/-- Settles O36: the integrator is kept or the candidate, which lies within the clamp on the integrating branch. -/
theorem integratorStaysWithinClamp : Obligations.IntegratorStaysWithinClamp := by
  intro s hsrc hcfg
  obtain ⟨-, -, hexec, -⟩ := exec_host s hsrc
  have hclamp := hcfg.iClampQ30_nonneg
  constructor
  · intro hbefore
    refine ⟨piStepOp s, hexec, ?_⟩
    rw [piStepOp_pi]
    obtain he | ⟨habs, -⟩ := piControl_integrator s.cfg s.x.ref s.x.meas s.x.now s.pi hclamp
    · rwa [he]
    · exact habs
  · intro hrun hnow err q w iCand uCand hwin hhi hlo
    refine ⟨piStepOp s, hexec, ?_⟩
    obtain ⟨h, -⟩ | ⟨-, h, -⟩ | ⟨-, -, he⟩ := piControl_cases s.cfg s.x.ref s.x.meas s.x.now s.pi
    · rw [hrun] at h
      cases h
    · exact absurd h hnow
    · have hcommit : piCommit uCand q iCand s.pi.integrator.toInt = iCand :=
        piCommit_of_not_deepens uCand q iCand _ (by simpa [ctrlMax] using hhi) (by simpa [ctrlMin] using hlo)
      have hi : (piStepOp s).pi.integrator = bits32 iCand := by
        rw [piStepOp_pi, he, ← hcommit]
        rfl
      obtain ⟨hout, -⟩ | ⟨-, habs, hrange⟩ :=
        piICand_cases s.cfg err q w (elapsedMs s.x.now s.pi.lastMs) s.pi.integrator.toInt hclamp
      · exact absurd hwin (not_le.2 hout)
      · rw [hi, bits32_toInt_of_inCtrlRange _ hrange]
        exact habs

/-- Settles O51: of the commands only the host's `ACTUATE` writes a compare register, and its word is the one encoding it has. -/
theorem compareRegistersOnlyByActuate : Obligations.CompareRegistersOnlyByActuate := by
  intro s t h hne
  obtain hout | hreset | ⟨c, rest, i, hin, hd, he⟩ := step_out h
  · rw [hout] at hne
    simp at hne
  · exact .inr hreset
  · obtain ⟨hA, hB⟩ | ⟨hsrc, rfl⟩ := exec_ccr he
    · exact absurd hne (by simp [hA, hB])
    · exact .inl ⟨c, rest, hin, hsrc, (encode_of_decode hd).symm⟩

/-- Settles O52: of the commands only the host's `WR` to the set or clear register writes `EN`; its word's fields name both. -/
theorem enableLinesOnlyBySetAndClear : Obligations.EnableLinesOnlyBySetAndClear := by
  intro s t h hne
  obtain hout | hreset | ⟨c, rest, i, hin, hd, he⟩ := step_out h
  · exact absurd (congrArg Outputs.en hout) hne
  · exact .inr hreset
  · obtain hen | ⟨hsrc, r, v, hr, rfl⟩ := exec_en he
    · exact absurd hen hne
    · have hfields := fieldsOf_of_decode hd
      have hop : c.word.extractLsb' 56 8 = 0x02 := congrArg Fields.op hfields
      have haddr : c.word.extractLsb' 48 8 = r.addr := congrArg Fields.addr hfields
      refine .inl ⟨c, rest, hin, hsrc, hop, ?_⟩
      rw [haddr]
      obtain rfl | rfl := hr <;> decide

/-- Settles O55: the second state is the first with other hidden state, and a step keeps that. -/
theorem privateStateUnobservable : Obligations.PrivateStateUnobservable := by
  intro s s' hpub hvel hpi
  rw [hpub.eq_withPrivate]
  exact step_staysApart s s'.pi s'.vel hvel hpi

/-- Settles O46: every field by definition, the slots because the ring is one value replicated. -/
theorem resetGivesListedValues : Obligations.ResetGivesListedValues := by
  have hslot : ∀ k : BitVec 5, State.reset.vel.slot k = { dc := 0, dms := 0 } := fun k => by
    simp [VelState.slot, State.reset, VelState.reset]
  exact ⟨rfl, rfl, rfl, rfl, hslot, rfl, rfl, rfl, rfl, rfl, rfl, rfl, rfl⟩

/-- Settles O50: each of the three parts at its reset value. -/
theorem soundnessHoldsAtReset : Obligations.SoundnessHoldsAtReset :=
  ⟨configLegal_reset, controllerSound_reset, estimatorSound_reset⟩

end Sys2Proof.Machine
end

section
/-! Register access (20_memory.md R65, R67): what `RD` and `WR` do at a mapped address, and that neither looks at the response
which stands from before. -/

namespace Sys2Proof.Machine

theorem respond_respond (s : State) (st st' : Status) (d d' : Word) :
    respond (respond s st d) st' d' = respond s st' d' := rfl

theorem readReg_respond (r : Reg) (s : State) (st : Status) (d : Word) : readReg r (respond s st d) = readReg r s := by
  cases r <;> rfl

theorem writeReg_respond (r : Reg) (v : Word) (s : State) (st : Status) (d : Word) :
    writeReg r v (respond s st d) = (writeReg r v s).map (respond · st d) := by
  cases r <;> rfl

/-- Storing a value a second time stores nothing new; for the set and clear registers since `|||` and `&&&` are idempotent. -/
theorem writeReg_writeReg_self {r : Reg} {v : Word} {s t : State} (h : writeReg r v s = some t) :
    writeReg r v t = some t := by
  cases r
  case enSet => cases h; simp [writeReg, BitVec.or_assoc]
  case enClr => cases h; simp [writeReg, BitVec.and_assoc]
  all_goals cases h <;> rfl

/-- The set and clear registers are the last two of the map (20_memory.md R61). -/
theorem Reg.not_set_clear_of_addr_le {r : Reg} (h : r.addr.toNat ≤ 0x1A) : r ≠ .enSet ∧ r ≠ .enClr := by
  constructor <;> rintro rfl <;> exact absurd h (by decide)

theorem execRd_addr_of_readReg {r : Reg} {s : State} {v : Word} (hm : mayReach s.cmdSrc r = true)
    (hr : readReg r s = some v) : execRd r.addr s = .next (respond s .ok v) := by
  simp [execRd, r.ofAddr_addr, hm, hr]

theorem execWr_addr_of_writeReg {r : Reg} {v : Word} {s t : State} (hm : mayReach s.cmdSrc r = true)
    (hw : writeReg r v s = some t) (hl : r.legal v = true) : execWr r.addr v s = .next (respond t .ok 0) := by
  simp [execWr, r.ofAddr_addr, hm, hw, hl]

/-- `RD` only answers, and its answer depends on the requester and on what the register reads as, nothing else. -/
theorem execRd_answer (a : Addr) (s : State) :
    ∃ st d, execRd a s = .next (respond s st d) ∧
      ∀ t : State, t.cmdSrc = s.cmdSrc → (∀ q : Reg, a = q.addr → readReg q t = readReg q s) →
        execRd a t = .next (respond t st d) := by
  cases ha : Reg.ofAddr a with
  | none => exact ⟨.addr, 0, by simp [execRd, ha, cmdError], fun t _ _ => by simp [execRd, ha, cmdError]⟩
  | some q =>
    have hq : a = q.addr := (Reg.ofAddr_eq_some a q).1 ha
    cases hm : mayReach s.cmdSrc q with
    | false =>
      exact ⟨.access, 0, by simp [execRd, ha, hm, cmdError], fun t hsrc _ => by simp [execRd, ha, hsrc, hm, cmdError]⟩
    | true =>
      cases hr : readReg q s with
      | none =>
        exact ⟨.access, 0, by simp [execRd, ha, hm, hr, cmdError],
          fun t hsrc hread => by simp [execRd, ha, hsrc, hm, hread q hq, hr, cmdError]⟩
      | some v =>
        exact ⟨.ok, v, by simp [execRd, ha, hm, hr], fun t hsrc hread => by simp [execRd, ha, hsrc, hm, hread q hq, hr]⟩

/-- The response that stands is neither read by `WR` nor kept. -/
theorem execWr_respond (a : Addr) (v : Word) (s : State) (st : Status) (d : Word) :
    execWr a v (respond s st d) = execWr a v s := by
  simp only [execWr, cmdError, respond_cmdSrc, writeReg_respond, respond_respond]
  cases Reg.ofAddr a with
  | none => rfl
  | some r =>
    dsimp only
    cases writeReg r v s <;> rfl

/-- A `WR` answered `ST_OK` reached a register of the map and stored a value there. -/
theorem execWr_ok {a : Addr} {v : Word} {s t : State} (h : execWr a v s = .next t) (hok : t.rsp = some ⟨.ok, 0⟩) :
    ∃ r t', a = Reg.addr r ∧ mayReach s.cmdSrc r = true ∧ writeReg r v s = some t' ∧ t = respond t' .ok 0 := by
  obtain ⟨r, t', ha, hm, hw, -, he⟩ | ⟨code, hc, he⟩ := execWr_cases a v s <;> rw [he] at h <;> cases h
  · exact ⟨r, t', ha, hm, hw, rfl⟩
  · exact absurd (by simpa using hok) hc

end Sys2Proof.Machine
end

section
/-! Who changes the controller and the estimator (20_memory.md R69). -/

namespace Sys2Proof.Machine

/-- A command keeps the controller and the estimator, or is one of the two of the host's that own one and keeps the other. -/
theorem exec_keeps_or_owns {s t : State} {i : Instr} (h : exec i s = .next t) :
    (t.pi = s.pi ∧ t.vel = s.vel) ∨
      (s.cmdSrc = .host ∧
        (((i = .piStep ∨ i = .piReset) ∧ t.vel = s.vel) ∨ ((i = .velStep ∨ i = .velReset) ∧ t.pi = s.pi))) := by
  obtain ⟨code, -, rfl⟩ | ⟨r, v, -, -, -, rfl⟩ | ⟨r, v, t', -, -, hw, -, rfl⟩ | ⟨hsrc, hop⟩ := exec_cases i s t h
  · exact .inl ⟨rfl, rfl⟩
  · exact .inl ⟨rfl, rfl⟩
  · obtain ⟨hpi, hvel, -⟩ := writeReg_frame r v s t' hw
    exact .inl ⟨hpi, hvel⟩
  · obtain ⟨-, rfl⟩ | ⟨hi, rfl⟩ | ⟨hi, rfl⟩ | ⟨-, rfl⟩ | ⟨hi, rfl⟩ | ⟨hi, rfl⟩ := hop
    · exact .inl ⟨rfl, rfl⟩
    · exact .inr ⟨hsrc, .inr ⟨.inl hi, rfl⟩⟩
    · exact .inr ⟨hsrc, .inl ⟨.inl hi, rfl⟩⟩
    · exact .inl ⟨rfl, rfl⟩
    · exact .inr ⟨hsrc, .inl ⟨.inr hi, rfl⟩⟩
    · exact .inr ⟨hsrc, .inr ⟨.inr hi, rfl⟩⟩

/-- The same of a step, where a hardware reset may change both, with the owners by the words that encode them. -/
theorem step_keeps_or_owns {s t : State} (h : step s = .next t) :
    (t.pi = s.pi ∧ t.vel = s.vel) ∨ (∃ port inProgress rest, s.inbox = .reset port inProgress :: rest) ∨
      ∃ c rest, s.inbox = .command c :: rest ∧ c.src = .host ∧
        ((c.word ∈ [encode .piStep, encode .piReset] ∧ t.vel = s.vel) ∨
          (c.word ∈ [encode .velStep, encode .velReset] ∧ t.pi = s.pi)) := by
  obtain ⟨-, rfl⟩ | ⟨port, rest, -, rfl⟩ | ⟨port, inProgress, rest, hin, -⟩ | ⟨c, rest, hin, hc⟩ := step_cases s t h
  · exact .inl ⟨rfl, rfl⟩
  · exact .inl ⟨rfl, rfl⟩
  · exact .inr (.inl ⟨port, inProgress, rest, hin⟩)
  · obtain ⟨e, -, rfl⟩ | ⟨i, hd, he⟩ := hc
    · exact .inl ⟨rfl, rfl⟩
    · have hword : encode i = c.word := encode_of_decode hd
      obtain hkept | ⟨hsrc, ⟨hi, hvel⟩ | ⟨hi, hpi⟩⟩ := exec_keeps_or_owns he
      · exact .inl hkept
      · refine .inr (.inr ⟨c, rest, hin, hsrc, .inl ⟨?_, hvel⟩⟩)
        obtain rfl | rfl := hi <;> simp [← hword]
      · refine .inr (.inr ⟨c, rest, hin, hsrc, .inr ⟨?_, hpi⟩⟩)
        obtain rfl | rfl := hi <;> simp [← hword]

end Sys2Proof.Machine
end

section
/-! The obligations on the register space (20_memory.md). -/

namespace Sys2Proof.Machine

/-- Settles O17: the two write-only registers lie above 0x1A, so the register written reads back and no other one is touched. -/
theorem rdAfterWrReadsTheValue : Obligations.RdAfterWrReadsTheValue := by
  intro s t a b v _ hle h hok
  obtain ⟨r, t', rfl, hm, hw, rfl⟩ := execWr_ok h hok
  obtain ⟨hset, hclr⟩ := Reg.not_set_clear_of_addr_le hle
  obtain ⟨-, -, -, hsrc, -⟩ := writeReg_frame r v s t' hw
  constructor
  · refine execRd_addr_of_readReg (by rwa [respond_cmdSrc, hsrc]) ?_
    rw [readReg_respond]
    exact readReg_writeReg_self r v s t' hw hset hclr
  · intro hne
    obtain ⟨st, d, hbefore, hafter⟩ := execRd_answer b s
    refine ⟨⟨st, d⟩, hbefore, hafter (respond t' .ok 0) hsrc fun q hq => ?_⟩
    have hqr : q ≠ r := by
      rintro rfl
      exact hne hq
    rw [readReg_respond]
    exact readReg_writeReg_ne r q v s t' hw hqr fun _ => ⟨hset, hclr⟩

/-- Settles O18: after either command the register reads, and would be written, as it was by the first one; only the response
differs, and neither command looks at it. -/
theorem registerAccessIsIdempotent : Obligations.RegisterAccessIsIdempotent := by
  intro s a v
  constructor
  · obtain ⟨st, d, hfirst, hagain⟩ := execRd_answer a s
    exact ⟨respond s st d, hfirst, hagain _ rfl fun q _ => readReg_respond q s st d⟩
  · obtain ⟨r, t, rfl, hm, hw, hl, he⟩ | ⟨code, -, he⟩ := execWr_cases a v s
    · obtain ⟨-, -, -, hsrc, -⟩ := writeReg_frame r v s t hw
      refine ⟨respond t .ok 0, he, (execWr_respond _ _ _ _ _).trans ?_⟩
      exact execWr_addr_of_writeReg (by rwa [hsrc]) (writeReg_writeReg_self hw) hl
    · exact ⟨cmdError s code, he, (execWr_respond _ _ _ _ _).trans he⟩

/-- Settles O53: a step changes one of the two at most, by the word of a command that owns it, unless it is a hardware reset. -/
theorem privateStateOnlyByItsOwner : Obligations.PrivateStateOnlyByItsOwner := by
  intro s t h
  obtain ⟨hpi, hvel⟩ | hreset | ⟨c, rest, hin, hsrc, ⟨hword, hvel⟩ | ⟨hword, hpi⟩⟩ := step_keeps_or_owns h
  · exact ⟨(absurd hpi ·), (absurd hvel ·)⟩
  · exact ⟨fun _ => .inr hreset, fun _ => .inr hreset⟩
  · exact ⟨fun _ => .inl ⟨c, rest, hin, hsrc, hword⟩, (absurd hvel ·)⟩
  · exact ⟨(absurd hpi ·), fun _ => .inl ⟨c, rest, hin, hsrc, hword⟩⟩

end Sys2Proof.Machine
end

section
/-! Decoding and encoding (30_encoding.md R81 to R86): a word is its four fields, a command's word decodes to the command, the row of
the opcode table a word matches, and which fields are those of a command. -/

namespace Sys2Proof

theorem fieldsOf_wordOf (op : BitVec 8) (addr : Addr) (rsv : BitVec 16) (data : Word) :
    fieldsOf (wordOf op addr rsv data) = ⟨op, addr, rsv, data⟩ := by
  have hop : (op ++ addr ++ rsv ++ data).extractLsb' 56 8 = op := by
    rw [BitVec.extractLsb'_append_eq_of_le (by decide), BitVec.extractLsb'_append_eq_of_le (by decide)]
    exact BitVec.extractLsb'_append_eq_left
  have haddr : (op ++ addr ++ rsv ++ data).extractLsb' 48 8 = addr := by
    rw [BitVec.extractLsb'_append_eq_of_le (by decide), BitVec.extractLsb'_append_eq_of_le (by decide)]
    exact BitVec.extractLsb'_append_eq_right
  have hrsv : (op ++ addr ++ rsv ++ data).extractLsb' 32 16 = rsv := by
    rw [BitVec.extractLsb'_append_eq_of_le (by decide)]
    exact BitVec.extractLsb'_append_eq_right
  have hdata : (op ++ addr ++ rsv ++ data).extractLsb' 0 32 = data := BitVec.extractLsb'_append_eq_right
  simp only [wordOf, fieldsOf, hop, haddr, hrsv, hdata]

/-- Two words are equal when their fields are. -/
theorem wordOf_inj {op op' : BitVec 8} {addr addr' : Addr} {rsv rsv' : BitVec 16} {data data' : Word} :
    wordOf op addr rsv data = wordOf op' addr' rsv' data' ↔ op = op' ∧ addr = addr' ∧ rsv = rsv' ∧ data = data' := by
  constructor
  · intro h
    have hf := congrArg fieldsOf h
    simpa only [fieldsOf_wordOf, Fields.mk.injEq] using hf
  · rintro ⟨rfl, rfl, rfl, rfl⟩
    rfl

theorem fieldsOf_encode (i : Instr) : fieldsOf (encode i) = i.fields := by
  rw [encode_eq_wordOf_fields, fieldsOf_wordOf]

theorem decodeFields_fields (i : Instr) : decodeFields i.fields = .ok i := by
  cases i <;> rfl

/-- No bit of an encoding is dropped (30_encoding.md R85). -/
theorem decode_encode (i : Instr) : decode (encode i) = .ok i := by
  rw [decode, fieldsOf_encode, decodeFields_fields]

/-- Decoding is a bijection between legal words and commands (92_eei_decisions.md D38). -/
theorem decode_eq_ok_iff (w : CmdWord) (i : Instr) : decode w = .ok i ↔ encode i = w :=
  ⟨encode_of_decode, fun h => h ▸ decode_encode i⟩

theorem decode_eq_ok_iff_fields (w : CmdWord) (i : Instr) : decode w = .ok i ↔ fieldsOf w = i.fields :=
  ⟨fieldsOf_of_decode, fun h => by rw [decode, h, decodeFields_fields]⟩

/-! The rows of the opcode table. -/

/-- The command of `i`'s row with the operands that stand in the fields `f` (30_encoding.md R82, R83). -/
def Instr.withOperands (f : Fields) : Instr → Instr
  | .rd _ => .rd f.addr
  | .wr _ _ => .wr f.addr f.data
  | i => i

/-- The row of a command does not depend on its operands. -/
theorem opcodeRow_withOperands (f : Fields) (i : Instr) : opcodeRow (i.withOperands f) = opcodeRow i := by
  cases i <;> rfl

/-- The masks of the table keep `op` and `rsv`; they differ in `addr` and `data`. -/
theorem and_wordOf_eq_iff (w : CmdWord) (op mAddr : BitVec 8) (mData : Word) :
    w &&& wordOf (.allOnes 8) mAddr (.allOnes 16) mData = wordOf op 0 0 0 ↔
      (fieldsOf w).op = op ∧ (fieldsOf w).addr &&& mAddr = 0 ∧ (fieldsOf w).rsv = 0 ∧ (fieldsOf w).data &&& mData = 0 := by
  conv_lhs => rw [← wordOf_fieldsOf w, Laws.RowMatch.masked, wordOf_inj, BitVec.and_allOnes, BitVec.and_allOnes]

theorem rowMatch_rd_iff (w : CmdWord) (addr : Addr) :
    w &&& (opcodeRow (.rd addr)).2 = (opcodeRow (.rd addr)).1 ↔ decode w = .ok (.rd (fieldsOf w).addr) := by
  rw [decode_eq_ok_iff_fields]
  refine (and_wordOf_eq_iff w 0x01 0 (.allOnes 32)).trans ?_
  rw [BitVec.and_allOnes]
  cases fieldsOf w
  simp [Instr.fields, Instr.op]

theorem rowMatch_wr_iff (w : CmdWord) (addr : Addr) (data : Word) :
    w &&& (opcodeRow (.wr addr data)).2 = (opcodeRow (.wr addr data)).1 ↔
      decode w = .ok (.wr (fieldsOf w).addr (fieldsOf w).data) := by
  rw [decode_eq_ok_iff_fields]
  refine (and_wordOf_eq_iff w 0x02 0 0).trans ?_
  cases fieldsOf w
  simp [Instr.fields, Instr.op]

/-- A row whose mask is all ones is matched by one word. -/
theorem rowMatch_iff_of_allOnes {i : Instr} (h : opcodeRow i = (encode i, .allOnes 64)) (w : CmdWord) :
    w &&& (opcodeRow i).2 = (opcodeRow i).1 ↔ decode w = .ok i := by
  rw [h, BitVec.and_allOnes, decode_eq_ok_iff, eq_comm]

/-- A word matches a row exactly when it is the row's command, with the operands that stand in the word (30_encoding.md R83). -/
theorem rowMatch_iff (w : CmdWord) (i : Instr) :
    w &&& (opcodeRow i).2 = (opcodeRow i).1 ↔ decode w = .ok (i.withOperands (fieldsOf w)) := by
  cases i
  case rd addr => exact rowMatch_rd_iff w addr
  case wr addr data => exact rowMatch_wr_iff w addr data
  all_goals exact rowMatch_iff_of_allOnes rfl w

/-! The legal words. -/

/-- The commands of format `N` (30_encoding.md R82, R83). -/
def nCommands : List Instr := [.getMs, .velStep, .piStep, .actuate, .piReset, .velReset]

theorem fields_of_mem_nCommands {i : Instr} (h : i ∈ nCommands) : i.fields = ⟨i.op, 0, 0, 0⟩ := by
  cases i
  case rd addr => simp [nCommands] at h
  case wr addr data => simp [nCommands] at h
  all_goals rfl

/-- The checks of 30_encoding.md R82 and R86, as conditions on the fields that a command has. -/
theorem exists_fields_eq_iff (f : Fields) :
    (∃ i : Instr, f = i.fields) ↔
      (f.op = 0x01 ∨ f.op = 0x02 ∨ f.op ∈ nCommands.map Instr.op) ∧ f.rsv = 0 ∧
        (f.op ∈ nCommands.map Instr.op → f.addr = 0 ∧ f.data = 0) ∧ (f.op = 0x01 → f.data = 0) := by
  obtain ⟨op, addr, rsv, data⟩ := f
  constructor
  · rintro ⟨i, hi⟩
    rw [hi]
    cases i <;> simp [Instr.fields, Instr.op, nCommands]
  · rintro ⟨hop, rfl, hn, hr⟩
    obtain rfl | rfl | hmem := hop
    · obtain rfl : data = 0 := hr rfl
      exact ⟨.rd addr, rfl⟩
    · exact ⟨.wr addr data, rfl⟩
    · obtain ⟨rfl, rfl⟩ : addr = 0 ∧ data = 0 := hn hmem
      obtain ⟨i, hi, rfl⟩ := List.mem_map.1 hmem
      exact ⟨i, (fields_of_mem_nCommands hi).symm⟩

/-- The decoder refuses what is no command's word. -/
theorem decode_error_iff (w : CmdWord) : (∃ e, decode w = .error e) ↔ ¬ ∃ i : Instr, fieldsOf w = i.fields := by
  simp only [← decode_eq_ok_iff_fields]
  cases decode w <;> simp

end Sys2Proof
end

section
/-! What a step does with the next event, and the response it leaves (30_encoding.md R90, R93). -/

namespace Sys2Proof.Machine

theorem step_of_command {s : State} {c : Presented} {rest : List Event} (h : s.inbox = .command c :: rest) :
    step s = runWord c.word (accept s c rest) := by
  simp only [step, h]

theorem runWord_of_decode {w : CmdWord} {i : Instr} (h : decode w = .ok i) (s : State) : runWord w s = exec i s := by
  simp only [runWord, h]

theorem runWord_of_illegal {w : CmdWord} {e : DecodeError} (h : decode w = .error e) (s : State) :
    runWord w s = .next (cmdError s .op) := by
  simp only [runWord, h]

/-- No command ends in a fault or a refusal (93_implementation_defined.md). -/
theorem exec_total (i : Instr) (s : State) : ∃ t, exec i s = .next t := by
  cases i <;> exact ⟨_, rfl⟩

/-- Every command answers, and leaves the events to come alone. -/
theorem exec_answers (i : Instr) (s : State) : ∃ t r, exec i s = .next t ∧ t.rsp = some r ∧ t.inbox = s.inbox := by
  obtain ⟨t, ht⟩ := exec_total i s
  obtain ⟨code, -, rfl⟩ | ⟨r, v, -, -, -, rfl⟩ | ⟨r, v, t', -, -, hw, -, rfl⟩ | ⟨-, hop⟩ := exec_cases i s t ht
  · exact ⟨_, _, ht, rfl, rfl⟩
  · exact ⟨_, _, ht, rfl, rfl⟩
  · obtain ⟨-, -, -, -, -, -, hinbox, -⟩ := writeReg_frame r v s t' hw
    exact ⟨_, _, ht, rfl, hinbox⟩
  · obtain ⟨-, rfl⟩ | ⟨-, rfl⟩ | ⟨-, rfl⟩ | ⟨-, rfl⟩ | ⟨-, rfl⟩ | ⟨-, rfl⟩ := hop <;> exact ⟨_, _, ht, rfl, rfl⟩

/-- A word is answered whether it is legal or not (30_encoding.md R85, R90). -/
theorem runWord_answers (w : CmdWord) (s : State) : ∃ t r, runWord w s = .next t ∧ t.rsp = some r ∧ t.inbox = s.inbox := by
  cases hd : decode w with
  | error e => exact ⟨_, _, runWord_of_illegal hd s, rfl, rfl⟩
  | ok i => rw [runWord_of_decode hd]; exact exec_answers i s

/-- A step that takes no command leaves no response. -/
theorem step_of_no_command {s : State} (h : ∀ c rest, s.inbox ≠ .command c :: rest) :
    ∃ t, step s = .next t ∧ t.rsp = none := by
  unfold step
  match hs : s.inbox with
  | [] => exact ⟨_, rfl, rfl⟩
  | .idle port :: rest => exact ⟨_, rfl, rfl⟩
  | .reset port _ :: rest => exact ⟨_, rfl, rfl⟩
  | .command c :: rest => exact absurd hs (h c rest)

theorem step_of_command_answers {s : State} {c : Presented} {rest : List Event} (h : s.inbox = .command c :: rest) :
    ∃ t r, step s = .next t ∧ t.rsp = some r ∧ t.inbox = rest := by
  rw [step_of_command h]
  exact runWord_answers c.word (accept s c rest)

theorem step_total (s : State) : ∃ t, step s = .next t := by
  by_cases h : ∃ c rest, s.inbox = .command c :: rest
  · obtain ⟨c, rest, hin⟩ := h
    obtain ⟨t, -, ht, -⟩ := step_of_command_answers hin
    exact ⟨t, ht⟩
  · obtain ⟨t, ht, -⟩ := step_of_no_command fun c rest hin => h ⟨c, rest, hin⟩
    exact ⟨t, ht⟩

end Sys2Proof.Machine
end

section
/-! The obligations on the encoding (30_encoding.md). -/

namespace Sys2Proof.Machine

/-- Settles O1: the operands of a command have the widths of their fields, so every command is well-formed and none is left out. -/
theorem decodeOfEncodeIsCommand : Obligations.DecodeOfEncodeIsCommand := fun i _ => decode_encode i

/-- Settles O2: the fields of a word that decodes are those of the command, and a word is its fields. -/
theorem decodedWordIsItsEncoding : Obligations.DecodedWordIsItsEncoding := fun _ _ h => encode_of_decode h

/-- Settles O3: a word that matches two rows decodes to one command, whose row both are. -/
theorem decodeFollowsOpcodeMap : Obligations.DecodeFollowsOpcodeMap := by
  constructor
  · intro w
    exact ⟨rowMatch_iff w (.rd 0), rowMatch_iff w (.wr 0 0), rowMatch_iff w .getMs, rowMatch_iff w .velStep,
      rowMatch_iff w .piStep, rowMatch_iff w .actuate, rowMatch_iff w .piReset, rowMatch_iff w .velReset⟩
  · intro w i j hi hj
    have hsame : i.withOperands (fieldsOf w) = j.withOperands (fieldsOf w) :=
      Except.ok.inj (((rowMatch_iff w i).1 hi).symm.trans ((rowMatch_iff w j).1 hj))
    rw [← opcodeRow_withOperands (fieldsOf w) i, hsame, opcodeRow_withOperands]

/-- Settles O4: the listed conditions are the ways in which a word's fields fail to be those of a command. -/
theorem illegalWordsAreTheListed : Obligations.IllegalWordsAreTheListed := by
  intro w
  have hop : w.extractLsb' 56 8 ∈ [0x01, 0x02, 0x10, 0x11, 0x12, 0x13, 0x20, 0x21] ↔
      (fieldsOf w).op = 0x01 ∨ (fieldsOf w).op = 0x02 ∨ (fieldsOf w).op ∈ nCommands.map Instr.op := by
    rw [List.mem_cons, List.mem_cons]
    rfl
  rw [decode_error_iff, exists_fields_eq_iff, ← hop]
  change ¬ (w.extractLsb' 56 8 ∈ _ ∧ w.extractLsb' 32 16 = 0 ∧
    (w.extractLsb' 56 8 ∈ [0x10, 0x11, 0x12, 0x13, 0x20, 0x21] → w.extractLsb' 48 8 = 0 ∧ w.extractLsb' 0 32 = 0) ∧
    (w.extractLsb' 56 8 = 0x01 → w.extractLsb' 0 32 = 0)) ↔ _
  simp only [not_and_or, Classical.not_imp, ne_eq]

/-- Settles O8: a presented word is run or refused, and either way answered. -/
theorem everyStepAnswersOneResponse : Obligations.EveryStepAnswersOneResponse :=
  ⟨step_total, fun _ _ _ h => step_of_command_answers h, fun _ h => step_of_no_command h⟩

/-- Settles O5: each word is the encoding of its command. -/
theorem specWordsDecodeAsListed : Obligations.SpecWordsDecodeAsListed :=
  ⟨decode_encode (.wr 0x01 0xFFFFF830), decode_encode (.rd 0x21), decode_encode .getMs, decode_encode .velStep,
    decode_encode .piStep, decode_encode .actuate, decode_encode .piReset, decode_encode .velReset⟩

/-- Settles O6: the state that has accepted the command is the one the statement writes out. -/
theorem stepRunsDecodedCommand : Obligations.StepRunsDecodedCommand := by
  intro s c rest i hin hd _
  rw [step_of_command hin, runWord_of_decode hd]
  rfl

/-- Settles O9: the response word is the status code appended above the data. -/
theorem responseIsStatusThenData : Obligations.ResponseIsStatusThenData :=
  ⟨fun _ => ⟨BitVec.extractLsb'_append_eq_left, BitVec.extractLsb'_append_eq_right⟩, rfl⟩

end Sys2Proof.Machine
end

section
/-! The fixed-point helpers (40_fixed_point_helpers.md R110 to R119): the cases of a clamp, the magnitude and the sign of a quotient,
the interval of the shift. -/

namespace Sys2Proof.Machine

theorem clamp_of_lt (x lo hi : Int) (h : x < lo) : clamp x lo hi = lo := if_pos h

theorem clamp_of_gt (x lo hi : Int) (hle : lo ≤ hi) (h : hi < x) : clamp x lo hi = hi := by
  rw [clamp, if_neg (by omega), if_pos h]

/-- Rounding toward zero divides the magnitudes and rounds down. -/
theorem abs_divZ (a b : Int) : |divZ a b| = |a| / |b| := by
  simp only [divZ, Int.abs_eq_natAbs, Int.natAbs_tdiv]
  rfl

/-- A quotient that is not 0 has the sign of the dividend times that of the divisor. -/
theorem divZ_eq_sign_mul (a b : Int) : divZ a b = a.sign * b.sign * (|a| / |b|) := by
  rw [← Int.sign_mul_abs (divZ a b), abs_divZ]
  rcases lt_or_ge a.natAbs b.natAbs with h | h
  · have hzero : |a| / |b| = 0 := Int.ediv_eq_zero_of_lt (abs_nonneg a) (by
      rwa [Int.abs_eq_natAbs, Int.abs_eq_natAbs, Int.ofNat_lt])
    rw [hzero, mul_zero, mul_zero]
  · have hsign : (divZ a b).sign = a.sign * b.sign := by rw [divZ, Int.sign_tdiv, if_neg (not_lt.2 h)]
    rw [hsign]

theorem asr_mul_le_and_lt (v : Int) (k : Nat) : asr v k * 2 ^ k ≤ v ∧ v < (asr v k + 1) * 2 ^ k :=
  have hp : (0 : Int) < 2 ^ k := by positivity
  ⟨Int.ediv_mul_le v hp.ne', Int.lt_ediv_add_one_mul_self v hp⟩

end Sys2Proof.Machine
end

section
/-! The bounds of 40_fixed_point_helpers.md R122, one lemma per value that enters a row of the table: words, products and quotients,
then the terms of the controller, the sums of the estimator and the magnitude of the actuator. -/

namespace Sys2Proof.Machine

theorem abs_toInt_le (w : Word) : |w.toInt| ≤ 2 ^ 31 := by
  have hlo := BitVec.le_toInt w
  have hhi := BitVec.toInt_lt (x := w)
  exact abs_le.2 ⟨hlo, hhi.le⟩

/-- Two signed patterns of one width differ by less than the number of patterns. -/
theorem abs_toInt_sub_toInt_le {n : Nat} (a b : BitVec n) : |a.toInt - b.toInt| ≤ 2 ^ n - 1 := by
  have ha := BitVec.le_two_mul_toInt (x := a)
  have ha' := BitVec.two_mul_toInt_lt (x := a)
  have hb := BitVec.le_two_mul_toInt (x := b)
  have hb' := BitVec.two_mul_toInt_lt (x := b)
  exact abs_le.2 ⟨by omega, by omega⟩

theorem abs_mul_le_mul {a b m n : Int} (ha : |a| ≤ m) (hb : |b| ≤ n) : |a * b| ≤ m * n := by
  rw [abs_mul]
  exact mul_le_mul ha hb (abs_nonneg b) ((abs_nonneg a).trans ha)

theorem abs_divZ_le {a b m : Int} (hb : 0 < b) (ha : |a| ≤ m) : |divZ a b| ≤ m / b := by
  rw [abs_divZ, abs_of_pos hb]
  exact Int.ediv_le_ediv hb ha

/-! The controller. -/

theorem abs_satCtrl_le (x : Int) : |satCtrl x| ≤ 2 ^ 30 := by
  obtain ⟨hlo, hhi⟩ := satCtrl_mem x
  exact abs_le.2 ⟨by omega, by omega⟩

theorem abs_piErr_le (cfg : Tunables) (ref meas : Int) : |piErr cfg ref meas| ≤ |ref - meas| := by
  unfold piErr
  split_ifs
  · exact abs_zero.trans_le (abs_nonneg _)
  · exact le_rfl

theorem abs_piErrQ15_le (cfg : Tunables) (err : Int) : |piErrQ15 cfg err| ≤ 2 ^ 15 := by
  obtain ⟨hlo, hhi⟩ := piErrQ15_mem cfg err
  exact abs_le.2 ⟨by omega, by omega⟩

theorem ConfigLegal.abs_kpQ15_le {c : Tunables} (h : ConfigLegal c) : |c.kpQ15.toInt| ≤ 2 ^ 15 := by
  obtain ⟨⟨hlo, hhi⟩, -⟩ := h
  exact abs_le.2 ⟨by omega, by omega⟩

theorem ConfigLegal.abs_kiQ15_le {c : Tunables} (h : ConfigLegal c) : |c.kiQ15.toInt| ≤ 2 ^ 15 := by
  obtain ⟨-, ⟨hlo, hhi⟩, -⟩ := h
  exact abs_le.2 ⟨by omega, by omega⟩

theorem ConfigLegal.intWindowPct_nonneg {c : Tunables} (h : ConfigLegal c) : 0 ≤ c.intWindowPct.toInt := by
  obtain ⟨-, -, -, -, hpct, -⟩ := h
  exact hpct

theorem ConfigLegal.encoderPpr_nonneg {c : Tunables} (h : ConfigLegal c) : 0 ≤ c.encoderPpr.toInt := by
  obtain ⟨-, -, -, -, -, -, -, hppr⟩ := h
  exact hppr

/-- The numerator of the integrating branch: a Q15 gain, a Q15 error and a 32-bit time. -/
theorem ConfigLegal.abs_kiQ15_mul_le {c : Tunables} (h : ConfigLegal c) (err : Int) (dt : Word) :
    |c.kiQ15.toInt * piErrQ15 c err * dt.toNat| ≤ 2 ^ 15 * 2 ^ 15 * (2 ^ 32 - 1) := by
  have hdt : |(dt.toNat : Int)| ≤ 2 ^ 32 - 1 := by
    have := dt.isLt
    rw [Nat.abs_cast]
    omega
  exact abs_mul_le_mul (abs_mul_le_mul h.abs_kiQ15_le (abs_piErrQ15_le c err)) hdt

theorem ConfigLegal.abs_piDi_le {c : Tunables} (h : ConfigLegal c) (err : Int) (dt : Word) :
    |piDi c (piErrQ15 c err) dt| ≤ 2 ^ 15 * 2 ^ 15 * (2 ^ 32 - 1) / 1000 :=
  abs_divZ_le (by decide) (h.abs_kiQ15_mul_le err dt)

theorem abs_le_of_inCtrlRange {v : Int} (h : InCtrlRange v) : |v| ≤ 2 ^ 30 := by
  obtain ⟨hlo, hhi⟩ := h
  exact abs_le.2 ⟨hlo, by omega⟩

/-- Integrating saturates, and frozen the candidate is the integrator. -/
theorem abs_piICand_le {c : Tunables} (h : ConfigLegal c) (err q window : Int) (dt : Word) {i : Int} (hi : InCtrlRange i) :
    |piICand c err q window dt i| ≤ 2 ^ 30 := by
  obtain ⟨-, hfrozen⟩ | ⟨-, -, hlo, hhi⟩ := piICand_cases c err q window dt i h.iClampQ30_nonneg
  · rw [hfrozen]
    exact abs_le_of_inCtrlRange hi
  · exact abs_le.2 ⟨by omega, by omega⟩

/-- The two output sums: two saturated terms and an integrator. -/
theorem abs_ff_add_p_add_le (c : Tunables) (ref q : Int) {i : Int} (hi : |i| ≤ 2 ^ 30) :
    |piFf c ref + piP c q + i| ≤ 3 * 2 ^ 30 := by
  have hff : |piFf c ref| ≤ 2 ^ 30 := abs_satCtrl_le _
  have hp : |piP c q| ≤ 2 ^ 30 := abs_satCtrl_le _
  have hsum := abs_add_three (piFf c ref) (piP c q) i
  omega

/-! The estimator. -/

theorem EstimatorSound.abs_sumDeltaCount_le {v : VelState} (hv : EstimatorSound v) : |v.sumDeltaCount.toInt| ≤ 2 ^ 20 := by
  obtain ⟨hfilled, hcount, -⟩ := (estimatorSound_iff v).1 hv
  have hmem := dcTotal_mem v.active
  rw [length_active] at hmem
  rw [hcount]
  exact abs_le.2 ⟨by omega, by omega⟩

theorem EstimatorSound.sumDeltaMs_lt {v : VelState} (hv : EstimatorSound v) : v.sumDeltaMs.toNat < 2 ^ 21 := by
  obtain ⟨hfilled, -, hms, -⟩ := (estimatorSound_iff v).1 hv
  have hle := dmsTotal_le v.active
  rw [length_active] at hle
  omega

theorem four_mul_encoderPpr_lt (c : Tunables) : 4 * c.encoderPpr.toInt < 2 ^ 33 := by
  have := BitVec.toInt_lt (x := c.encoderPpr)
  omega

theorem rpmDen_nonneg {c : Tunables} (h : ConfigLegal c) (v : VelState) : 0 ≤ rpmDen c v := by
  have hppr := h.encoderPpr_nonneg
  unfold rpmDen
  positivity

theorem rpmDen_lt {c : Tunables} {v : VelState} (hv : EstimatorSound v) : rpmDen c v < 2 ^ 54 := by
  have hms := hv.sumDeltaMs_lt
  calc rpmDen c v ≤ 2 ^ 33 * v.sumDeltaMs.toNat :=
        mul_le_mul_of_nonneg_right (four_mul_encoderPpr_lt c).le (Int.natCast_nonneg _)
    _ < 2 ^ 54 := by omega

theorem abs_rpmOf_sub_le (c : Tunables) (v : VelState) (w : Word) : |rpmOf c v - w.toInt| ≤ 2 ^ 32 - 1 := by
  obtain ⟨hlo, hhi⟩ : -2147483648 ≤ rpmOf c v ∧ rpmOf c v ≤ 2147483647 := clamp_mem (rpmRaw c v) _ _ (by decide)
  have hw := BitVec.le_toInt w
  have hw' := BitVec.toInt_lt (x := w)
  exact abs_le.2 ⟨by omega, by omega⟩

/-! The actuator. -/

/-- The substitute for `CTRL_MIN` is its own magnitude (42_actuator_mapper.md R162). -/
theorem magOf_eq_abs (u : Int) : magOf u = |u| := by
  unfold magOf
  split_ifs with h
  · rw [h]
    decide
  · exact absZ_eq_abs u

theorem top_le (arr : Word) : (arr.toNat : Int) + 1 ≤ 2 ^ 32 := by
  have := arr.isLt
  omega

theorem magOf_mul_top_le (u : Int) (arr : Word) : magOf (satCtrl u) * (arr.toNat + 1) ≤ 2 ^ 62 := by
  rw [magOf_eq_abs]
  exact mul_le_mul (abs_satCtrl_le u) (top_le arr) (by positivity) (by positivity)

end Sys2Proof.Machine
end

section
/-! The obligations on the fixed-point helpers (40_fixed_point_helpers.md). -/

namespace Sys2Proof.Machine

/-- Settles O44: a quotient is its sign and its magnitude, and the shift is the integer part of `v / 2^k`. -/
theorem divisionTowardZeroShiftDown : Obligations.DivisionTowardZeroShiftDown :=
  ⟨fun a b _ => divZ_eq_sign_mul a b, asr_mul_le_and_lt⟩

/-- Settles O45: row by row of the table; the invariants bound the gains, the integrator and the two running sums, the containers and
the saturating helpers the rest. -/
theorem intermediatesFitInSixtyFourBits : Obligations.IntermediatesFitInSixtyFourBits := by
  rintro s ⟨hcfg, ⟨hi, -⟩, hvel⟩
  intro c ref meas err q dt di iCand
  have hdiff : |ref - meas| ≤ 2 ^ 32 - 1 := abs_toInt_sub_toInt_le s.x.ref s.x.meas
  have href : |ref| ≤ 2 ^ 31 := abs_toInt_le s.x.ref
  have herr : |err * 32768| < 2 ^ 47 :=
    (abs_mul_le_mul ((abs_piErr_le c ref meas).trans hdiff) le_rfl).trans_lt (by decide)
  have hwindow : |ref| * c.intWindowPct.toInt ≤ 2 ^ 62 :=
    mul_le_mul href ((le_abs_self _).trans (abs_toInt_le _)) hcfg.intWindowPct_nonneg (by decide)
  have hnum : |c.kiQ15.toInt * q * dt.toNat| < 2 ^ 62 := (hcfg.abs_kiQ15_mul_le err dt).trans_lt (by decide)
  have hint : |s.pi.integrator.toInt + di| < 2 ^ 53 :=
    (abs_add_le _ _).trans_lt ((add_le_add (abs_le_of_inCtrlRange hi) (hcfg.abs_piDi_le err dt)).trans_lt (by decide))
  have hcount : |s.vel.sumDeltaCount.toInt * 60000| < 2 ^ 36 :=
    (abs_mul_le_mul hvel.abs_sumDeltaCount_le le_rfl).trans_lt (by decide)
  exact ⟨hdiff, abs_mul_le_mul (abs_toInt_le c.uPerRpm) href, herr,
    abs_mul_le_mul hcfg.abs_kpQ15_le (abs_piErrQ15_le c err), hwindow, hnum, hint,
    abs_ff_add_p_add_le c ref q (abs_piICand_le hcfg err q _ dt hi), abs_ff_add_p_add_le c ref q (abs_le_of_inCtrlRange hi),
    abs_toInt_sub_toInt_le s.port.encCnt s.vel.prevCount, hcount, four_mul_encoderPpr_lt c, rpmDen_nonneg hcfg s.vel,
    rpmDen_lt hvel, abs_rpmOf_sub_le c s.vel s.vel.velFilt, top_le s.port.pwmArr, magOf_mul_top_le s.x.u.toInt s.port.pwmArr⟩

/-- Settles O43: below, above and within the bounds of each clamp. -/
theorem helpersSaturateAsSpecified : Obligations.HelpersSaturateAsSpecified := fun x =>
  ⟨clamp_of_lt x _ _, clamp_of_gt x _ _ (by decide), clamp_of_mem x _ _,
    clamp_of_lt x _ _, clamp_of_gt x _ _ (by decide), clamp_of_mem x _ _, absZ_eq_abs x⟩

end Sys2Proof.Machine
end

section
/-! The velocity estimator (41_velocity_estimator.md): the paths of a call, a pushed sample and a pass of the trim loop in exact
integers, the samples the trim keeps, the bounds of the quotient and of the filter. -/

namespace Sys2Proof.Machine

/-! One equation per path of a call (R130). -/

theorem velEstimate_latch {v : VelState} (h : v.prevMs = 0) (cfg : Tunables) (now : Word) (cnt : Half) :
    velEstimate cfg now cnt v = ({ v with prevCount := cnt, prevMs := now }, 0) := by
  obtain ⟨-, he⟩ | ⟨hne, -⟩ | ⟨hne, -⟩ := velEstimate_cases cfg now cnt v
  · exact he
  · exact absurd h hne
  · exact absurd h hne

theorem velEstimate_duplicate {v : VelState} {now : Word} (h : v.prevMs ≠ 0) (hnow : now = v.prevMs) (cfg : Tunables)
    (cnt : Half) : velEstimate cfg now cnt v = (v, v.velFilt) := by
  obtain ⟨hz, -⟩ | ⟨-, -, he⟩ | ⟨-, hne, -⟩ := velEstimate_cases cfg now cnt v
  · exact absurd hz h
  · exact he
  · exact absurd hnow hne

/-- The filter after a call that takes a sample (R138 to R140); the sample itself leaves `vel_filt` alone. -/
def sampledFilt (cfg : Tunables) (now : Word) (cnt : Half) (v : VelState) : Word :=
  (updateFilter cfg (takeSample cfg now cnt v)).velFilt

theorem sampledFilt_eq (cfg : Tunables) (now : Word) (cnt : Half) (v : VelState) :
    sampledFilt cfg now cnt v =
      if (takeSample cfg now cnt v).sumDeltaMs = 0 ∨ rpmDen cfg (takeSample cfg now cnt v) = 0 then v.velFilt
      else bits32 (smooth v.velFilt.toInt (rpmOf cfg (takeSample cfg now cnt v)) (iirShift cfg)) := by
  obtain ⟨-, -, -, hfilt⟩ := takeSample_frame cfg now cnt v
  rw [sampledFilt, updateFilter_eq, hfilt]

theorem velEstimate_sample {v : VelState} {now : Word} (h : v.prevMs ≠ 0) (hnow : now ≠ v.prevMs) (cfg : Tunables)
    (cnt : Half) :
    velEstimate cfg now cnt v =
      ({ takeSample cfg now cnt v with velFilt := sampledFilt cfg now cnt v }, sampledFilt cfg now cnt v) := by
  obtain ⟨hz, -⟩ | ⟨-, he, -⟩ | ⟨-, -, he⟩ := velEstimate_cases cfg now cnt v
  · exact absurd hz h
  · exact absurd he hnow
  · rw [he, sampledFilt, updateFilter_eq]

/-- `MEAS` and the answer take the estimator's return value, and nothing outside the estimator is written (R130). -/
theorem exec_velStep_of_velEstimate {s : State} {v : VelState} {d : Word} (h : s.cmdSrc = .host)
    (he : velEstimate s.cfg s.x.now s.port.encCnt s.vel = (v, d)) :
    exec .velStep s = .next { s with x := { s.x with meas := d }, vel := v, rsp := some ⟨.ok, d⟩ } := by
  obtain ⟨-, hexec, -⟩ := exec_host s h
  rw [hexec, velStepOp, he]
  rfl

theorem exec_velStep_latch {s : State} (h : s.cmdSrc = .host) (hprev : s.vel.prevMs = 0) :
    exec .velStep s = .next
      { s with
        x := { s.x with meas := 0 }
        vel := { s.vel with prevCount := s.port.encCnt, prevMs := s.x.now }
        rsp := some ⟨.ok, 0⟩ } :=
  exec_velStep_of_velEstimate h (velEstimate_latch hprev _ _ _)

/-! The wrapping differences and the cap (R133, R136). -/

theorem ofInt_toNat (n : Nat) (w : BitVec n) : BitVec.ofInt n w.toNat = w := by simp

theorem ofInt_sub (n : Nat) (x y : Int) : BitVec.ofInt n (x - y) = BitVec.ofInt n x - BitVec.ofInt n y := by
  rw [eq_sub_iff_add_eq, ← BitVec.ofInt_add, sub_add_cancel]

theorem countDiff_eq_ofInt (cnt prev : Half) : countDiff cnt prev = BitVec.ofInt 16 (cnt.toInt - prev.toInt) := by
  rw [ofInt_sub, BitVec.ofInt_toInt, BitVec.ofInt_toInt, countDiff]

theorem countDiff_add (before m : Half) : countDiff (before + m) before = m := add_sub_cancel_left before m

theorem elapsedMs_add (before d : Word) : elapsedMs (before + d) before = d := add_sub_cancel_left before d

theorem capMs_elapsedMs (now since : Word) :
    capMs (elapsedMs now since) = BitVec.ofInt 16 (min (((now.toNat : Int) - since.toNat) % 2 ^ 32) 65535) := by
  rw [← elapsedMs_toNat, capMs, ← BitVec.ofInt_natCast]
  push_cast
  rfl

/-! A pass of the loop and a pushed sample, in exact integers (R136, R137). -/

theorem sub_add_signExtend_eq_ofInt (sum : Word) (old new : Half) :
    sum - old.signExtend 32 + new.signExtend 32 = BitVec.ofInt 32 (sum.toInt - old.toInt + new.toInt) := by
  rw [BitVec.ofInt_add, ofInt_sub, BitVec.ofInt_toInt]
  rfl

theorem sub_add_setWidth_eq_ofInt (sum : Word) (old new : Half) :
    sum - old.setWidth 32 + new.setWidth 32 = BitVec.ofInt 32 (sum.toNat - old.toNat + new.toNat) := by
  rw [BitVec.ofInt_add, ofInt_sub, ofInt_toNat, BitVec.ofInt_natCast, BitVec.ofInt_natCast]
  simp only [BitVec.ofNat_toNat]

theorem pushSample_exact (v : VelState) (new : Slot) :
    pushSample v new =
      { v with
        ring := v.ring.set v.idx.toNat new v.idx.isLt
        sumDeltaCount := BitVec.ofInt 32 (v.sumDeltaCount.toInt - (v.slot v.idx).dc.toInt + new.dc.toInt)
        sumDeltaMs := BitVec.ofInt 32 (v.sumDeltaMs.toNat - (v.slot v.idx).dms.toNat + new.dms.toNat)
        idx := BitVec.ofNat 5 ((v.idx.toNat + 1) % 32)
        filled := BitVec.ofNat 6 (min (v.filled.toNat + 1) 32) } := by
  have hidx : BitVec.ofNat 5 ((v.idx.toNat + 1) % 32) = v.idx + 1 := by
    apply BitVec.eq_of_toNat_eq
    simp [BitVec.toNat_add]
  rw [← sub_add_signExtend_eq_ofInt, ← sub_add_setWidth_eq_ofInt, hidx]
  rfl

theorem oldest_eq_ofInt (v : VelState) : BitVec.ofInt 5 ((v.idx.toNat : Int) - v.filled.toNat) = v.oldest := by
  rw [ofInt_sub, ofInt_toNat, BitVec.ofInt_natCast, ← setWidth_filled, VelState.oldest]

/-- The slot dropped is given apart: the statements name it by its number `(idx − filled) mod 32`. -/
theorem dropOldest_exact {v : VelState} {o : BitVec 5} (ho : o = v.oldest) (h : 1 ≤ v.filled.toNat) :
    dropOldest v =
      { v with
        sumDeltaCount := BitVec.ofInt 32 (v.sumDeltaCount.toInt - (v.slot o).dc.toInt)
        sumDeltaMs := BitVec.ofInt 32 (v.sumDeltaMs.toNat - (v.slot o).dms.toNat)
        ring := v.ring.set o.toNat { dc := 0, dms := 0 } o.isLt
        filled := BitVec.ofNat 6 (v.filled.toNat - 1) } := by
  subst ho
  obtain ⟨n, hn⟩ := Nat.exists_eq_add_of_le' h
  have hcount : (dropOldest v).sumDeltaCount = BitVec.ofInt 32 (v.sumDeltaCount.toInt - (v.slot v.oldest).dc.toInt) := by
    rw [dropOldest_sumDeltaCount, sub_add_signExtend_eq_ofInt, show (0 : Half).toInt = 0 from rfl, add_zero]
  have hms : (dropOldest v).sumDeltaMs = BitVec.ofInt 32 (v.sumDeltaMs.toNat - (v.slot v.oldest).dms.toNat) := by
    rw [dropOldest_sumDeltaMs, sub_add_setWidth_eq_ofInt, show (0 : Half).toNat = 0 from rfl, Nat.cast_zero, add_zero]
  have hfilled : (dropOldest v).filled = BitVec.ofNat 6 (v.filled.toNat - 1) := by
    rw [hn, Nat.add_sub_cancel, ← dropOldest_filled_toNat v n hn, BitVec.ofNat_toNat, BitVec.setWidth_eq]
  rw [← hcount, ← hms, ← hfilled]
  rfl

/-- The bound on the passes is never met: `trim` is the loop without it (R137). -/
theorem trim_eq (window : Word) (v : VelState) :
    trim window v = if needsTrim window v then trim window (dropOldest v) else v := by
  split
  · rename_i hn
    obtain ⟨-, hfilled⟩ := (needsTrim_iff window v).1 hn
    obtain ⟨n, hf⟩ := Nat.exists_eq_add_of_le' hfilled.le
    rw [trim, hf, trimLoop, if_pos hn, trim, dropOldest_filled_toNat v n hf]
  · rename_i hn
    exact trimLoop_of_not_needsTrim window _ v (Bool.eq_false_iff.2 hn)

/-! Which samples the trim keeps (R137, 90_conflicts.md C4). -/

theorem EstimatorSound.active_suffix {v : VelState} (hv : EstimatorSound v) (window : Word) (passes : Nat) :
    (Machine.trimLoop window passes v).active <:+ v.active := by
  induction passes generalizing v with
  | zero => exact List.suffix_rfl
  | succ passes ih =>
    rw [Machine.trimLoop]
    split
    · rename_i hn
      obtain ⟨-, hfilled⟩ := (needsTrim_iff window v).1 hn
      rw [active_eq_cons v hfilled.le hv.1]
      exact (ih (hv.dropOldest hfilled.le)).trans (List.suffix_cons _ _)
    · exact List.suffix_rfl

/-- Every pass found the window too long, so every run of newest samples longer than the one left is too long. -/
theorem EstimatorSound.window_lt_of_longer {v : VelState} (hv : EstimatorSound v) (window : Word) (passes : Nat)
    (longer : List Slot) (hsuffix : longer <:+ v.active)
    (hlen : (Machine.trimLoop window passes v).active.length < longer.length) : window.toNat < dmsTotal longer := by
  induction passes generalizing v with
  | zero => exact absurd hsuffix.length_le (not_le.2 hlen)
  | succ passes ih =>
    rw [Machine.trimLoop] at hlen
    split at hlen
    · rename_i hn
      obtain ⟨hwindow, hfilled⟩ := (needsTrim_iff window v).1 hn
      obtain ⟨h32, -, hms, -⟩ := (estimatorSound_iff v).1 hv
      have hcons := active_eq_cons v hfilled.le h32
      rw [hcons] at hsuffix
      obtain rfl | hshorter := List.suffix_cons_iff.1 hsuffix
      · rwa [← hcons, ← hms]
      · exact ih (hv.dropOldest hfilled.le) hshorter hlen
    · exact absurd hsuffix.length_le (not_le.2 hlen)

/-! The quotient (R138, R139). -/

theorem length_le_dmsTotal (l : List Slot) (h : ∀ sl ∈ l, 1 ≤ sl.dms.toNat) : l.length ≤ dmsTotal l := by
  induction l with
  | nil => exact le_rfl
  | cons sl l ih =>
    obtain ⟨hsl, hl⟩ := List.forall_mem_cons.1 h
    have := ih hl
    rw [dmsTotal_cons, List.length_cons]
    omega

/-- An active sample took at least a millisecond. -/
theorem EstimatorSound.filled_le_sumDeltaMs {v : VelState} (hv : EstimatorSound v) :
    v.filled.toNat ≤ v.sumDeltaMs.toNat := by
  obtain ⟨-, -, hms, -, hin⟩ := (estimatorSound_iff v).1 hv
  have hactive : ∀ sl ∈ v.active, 1 ≤ sl.dms.toNat := by
    intro sl hsl
    obtain ⟨j, hj, rfl⟩ := List.mem_map.1 hsl
    exact hin j (List.mem_range.1 hj)
  rw [hms, ← length_active]
  exact length_le_dmsTotal v.active hactive

theorem EstimatorSound.abs_sumDeltaCount_le_filled {v : VelState} (hv : EstimatorSound v) :
    |v.sumDeltaCount.toInt| ≤ 32768 * v.filled.toNat := by
  obtain ⟨-, hcount, -⟩ := (estimatorSound_iff v).1 hv
  rw [hcount, ← length_active]
  exact abs_le.2 (dcTotal_mem v.active)

/-- At most 32768 counts and at least one millisecond a sample, and four counts a pulse at the least. -/
theorem EstimatorSound.abs_rpmRaw_le {v : VelState} (hv : EstimatorSound v) (cfg : Tunables) (hf : 1 ≤ v.filled.toNat)
    (hppr : 1 ≤ cfg.encoderPpr.toInt) : |rpmRaw cfg v| ≤ 491520000 := by
  have hcount := hv.abs_sumDeltaCount_le_filled
  have hms : (v.filled.toNat : Int) ≤ v.sumDeltaMs.toNat := Int.ofNat_le.2 hv.filled_le_sumDeltaMs
  have hden : 4 * (v.sumDeltaMs.toNat : Int) ≤ rpmDen cfg v :=
    mul_le_mul_of_nonneg_right (by omega) (Int.natCast_nonneg _)
  have hnum : |v.sumDeltaCount.toInt * 60000| ≤ 491520000 * rpmDen cfg v :=
    (abs_mul_le_mul hcount le_rfl).trans (by norm_num; omega)
  rw [rpmRaw, abs_divZ, abs_of_pos (by omega : 0 < rpmDen cfg v)]
  exact Int.ediv_le_of_le_mul (by omega) hnum

theorem rpmDen_ne_zero {cfg : Tunables} {v : VelState} (hms : v.sumDeltaMs ≠ 0) (hppr : cfg.encoderPpr ≠ 0) :
    rpmDen cfg v ≠ 0 := by
  have hms' : (v.sumDeltaMs.toNat : Int) ≠ 0 := fun h => hms (BitVec.eq_of_toNat_eq (Int.ofNat_eq_zero.1 h))
  have hppr' : cfg.encoderPpr.toInt ≠ 0 := fun h => hppr (BitVec.eq_of_toInt_eq h)
  exact mul_ne_zero (mul_ne_zero (by decide) hppr') hms'

theorem rpmOf_eq_max_min (cfg : Tunables) (v : VelState) :
    rpmOf cfg v = max (-(2 ^ 31)) (min (2 ^ 31 - 1) (rpmRaw cfg v)) :=
  clamp_eq_max_min _ _ _ (by decide)

theorem rpmOf_mem (cfg : Tunables) (v : VelState) : -2147483648 ≤ rpmOf cfg v ∧ rpmOf cfg v ≤ 2147483647 :=
  clamp_mem _ _ _ (by decide)

/-! The filter (R140). -/

theorem iirShift_eq_max_min (cfg : Tunables) : iirShift cfg = (max 0 (min 8 cfg.velIirShift.toInt)).toNat :=
  congrArg Int.toNat (clamp_eq_max_min _ _ _ (by decide))

theorem smooth_mem (old rpm : Int) (k : Nat) : min old rpm ≤ smooth old rpm k ∧ smooth old rpm k ≤ max old rpm := by
  obtain ⟨hlo, hhi⟩ := asr_mem (rpm - old) k
  unfold smooth
  omega

theorem smooth_zero (old rpm : Int) : smooth old rpm 0 = rpm := by
  rw [smooth, asr, pow_zero, Int.ediv_one, add_sub_cancel]

theorem iirShift_of_nonpos {cfg : Tunables} (h : cfg.velIirShift.toInt ≤ 0) : iirShift cfg = 0 := by
  rw [iirShift_eq_max_min]
  omega

/-- Between two 32-bit values the smoothed speed fits its container. -/
theorem toInt_bits32_smooth (old : Word) (cfg : Tunables) (v : VelState) (k : Nat) :
    (bits32 (smooth old.toInt (rpmOf cfg v) k)).toInt = smooth old.toInt (rpmOf cfg v) k := by
  obtain ⟨hlo, hhi⟩ := smooth_mem old.toInt (rpmOf cfg v) k
  obtain ⟨hrlo, hrhi⟩ := rpmOf_mem cfg v
  have holo := BitVec.le_toInt old
  have hohi := BitVec.toInt_lt (x := old)
  exact bits32_toInt _ (by omega) (by omega)

/-- No guard met: the filter after the call is the smoothed speed, exactly. -/
theorem toInt_sampledFilt {cfg : Tunables} {now : Word} {cnt : Half} {v : VelState}
    (hms : (takeSample cfg now cnt v).sumDeltaMs ≠ 0) (hppr : cfg.encoderPpr ≠ 0) :
    (sampledFilt cfg now cnt v).toInt = smooth v.velFilt.toInt (rpmOf cfg (takeSample cfg now cnt v)) (iirShift cfg) := by
  rw [sampledFilt_eq, if_neg (not_or.2 ⟨hms, rpmDen_ne_zero hms hppr⟩), toInt_bits32_smooth]

end Sys2Proof.Machine
end

section
/-! The obligations on the velocity estimator (41_velocity_estimator.md). -/

namespace Sys2Proof.Machine

/-- Settles O23: steps 1 to 4 are a pushed sample, trimmed; steps 5 and 6 write the filter alone. -/
theorem velStepFullStep : Obligations.VelStepFullStep := by
  intro s hsrc hprev hnow deltaMs deltaCount old new pushed v den rpm k filt
  have hnew : Slot.mk (countDiff s.port.encCnt s.vel.prevCount) (capMs (elapsedMs s.x.now s.vel.prevMs)) = new := by
    rw [countDiff_eq_ofInt, capMs_elapsedMs]
  have hsample : takeSample s.cfg s.x.now s.port.encCnt s.vel = v := by
    rw [takeSample, hnew, pushSample_exact]
    rfl
  have hfilt : sampledFilt s.cfg s.x.now s.port.encCnt s.vel = filt := by
    rw [sampledFilt_eq, hsample, rpmOf_eq_max_min, iirShift_eq_max_min]
    rfl
  rw [exec_velStep_of_velEstimate hsrc (velEstimate_sample hprev hnow _ _), hsample, hfilt]

/-- Settles O24: the bounded loop unrolls by one pass, and a pass is one drop. -/
theorem trimIsTheWhileLoop : Obligations.TrimIsTheWhileLoop := by
  intro window v o
  have ho : o = v.oldest := oldest_eq_ofInt v
  rw [trim_eq]
  by_cases hn : window.toNat < v.sumDeltaMs.toNat ∧ 1 < v.filled.toNat
  · have ⟨_, hfilled⟩ := hn
    rw [if_pos hn, if_pos ((needsTrim_iff window v).2 hn), dropOldest_exact ho hfilled.le]
  · rw [if_neg hn, if_neg (mt (needsTrim_iff window v).1 hn)]

/-- Settles O25: a pass drops the head of the window, and only while the whole window is too long. -/
theorem trimLeavesLongestSuffix : Obligations.TrimLeavesLongestSuffix := by
  intro window v hv hfilled t
  have hpos : 1 ≤ t.filled.toNat := trimLoop_filled_pos window _ v hfilled
  obtain ⟨-, -, hms, -⟩ := (estimatorSound_iff t).1 (hv.trimLoop window _)
  obtain ⟨-, -, hidx, -⟩ := trimLoop_frame window v.filled.toNat v
  refine ⟨hv.active_suffix window _, ?_, hidx, ?_, hv.window_lt_of_longer window _⟩
  · rw [← List.length_pos_iff_ne_nil, length_active]
    exact hpos
  · rw [length_active]
    obtain hle | hone := trim_window window v hfilled
    · exact .inl (hms.symm.trans_le hle)
    · exact .inr (congrArg BitVec.toNat hone)

/-- Settles O27: the quotient is bounded sample by sample, well within the clamp. -/
theorem rpmClampNeverBinds : Obligations.RpmClampNeverBinds := by
  intro cfg v hv hfilled hppr
  have hraw := hv.abs_rpmRaw_le cfg hfilled hppr
  obtain ⟨hlo, hhi⟩ := abs_le.1 hraw
  exact ⟨hraw, clamp_of_mem _ _ _ (by omega) (by omega)⟩

/-- Settles O28: the shift moves the difference toward 0, so the filter does not pass `rpm` and fits its container. -/
theorem smoothedSpeedLiesBetween : Obligations.SmoothedSpeedLiesBetween := by
  intro s hsrc hprev hnow v hms hppr
  refine ⟨_, exec_velStep_of_velEstimate hsrc (velEstimate_sample hprev hnow _ _), ?_⟩
  have hfilt := toInt_sampledFilt hms hppr
  obtain ⟨hlo, hhi⟩ := smooth_mem s.vel.velFilt.toInt (rpmOf s.cfg v) (iirShift s.cfg)
  refine ⟨hlo.trans_eq hfilt.symm, hfilt.trans_le hhi, fun hshift => hfilt.trans ?_⟩
  rw [iirShift_of_nonpos hshift, smooth_zero]

/-- Settles O57: at `NOW = 0` the latch path and the sample path both store 0 as the previous time, and no duplicate can occur. -/
theorem zeroTimestampUninitialises : Obligations.ZeroTimestampUninitialises := by
  intro s hsrc hnow
  have hnext : ∀ t : State, t.vel.prevMs = 0 → ∀ s' : State, s'.cmdSrc = .host → s'.vel = t.vel →
      exec .velStep s' = .next
        { s' with
          x := { s'.x with meas := 0 }
          vel := { t.vel with prevCount := s'.port.encCnt, prevMs := s'.x.now }
          rsp := some ⟨.ok, 0⟩ } := by
    intro t ht s' hsrc' hvel
    rw [← hvel] at ht ⊢
    exact exec_velStep_latch hsrc' ht
  by_cases hprev : s.vel.prevMs = 0
  · exact ⟨_, exec_velStep_latch hsrc hprev, hnow, hnext _ hnow⟩
  · have hne : s.x.now ≠ s.vel.prevMs := fun h => hprev (h.symm.trans hnow)
    obtain ⟨-, hms, -⟩ := takeSample_frame s.cfg s.x.now s.port.encCnt s.vel
    have hzero := hms.trans hnow
    exact ⟨_, exec_velStep_of_velEstimate hsrc (velEstimate_sample hprev hne _ _), hzero, hnext _ hzero⟩

/-- Settles O21: the first path of a call. -/
theorem velStepLatchesFirstSample : Obligations.VelStepLatchesFirstSample := fun _ => exec_velStep_latch

/-- Settles O22: no time has passed just when the two timestamps are equal, and then the estimator is written back as it was. -/
theorem velStepDuplicateTickKeepsHistory : Obligations.VelStepDuplicateTickKeepsHistory := by
  intro s hsrc hprev hdelta
  have helapsed : elapsedMs s.x.now s.vel.prevMs = 0 := by
    apply BitVec.eq_of_toNat_eq
    rw [← elapsedMs_toNat] at hdelta
    exact Int.ofNat_eq_zero.1 hdelta
  exact exec_velStep_of_velEstimate hsrc (velEstimate_duplicate hprev ((elapsedMs_eq_zero _ _).1 helapsed) _ _)

/-- Settles O29: the difference cancels the earlier sample; what is left fits its container under the premises. -/
theorem differencesAreTrueUnderPremises : Obligations.DifferencesAreTrueUnderPremises := by
  refine ⟨?_, ?_, ?_, fun before m => countDiff_add before _⟩
  · rintro before after m ⟨hlo, hhi, rfl⟩
    rw [countDiff_add, BitVec.toInt_ofInt, Int.bmod_eq_of_le] <;> norm_num <;> omega
  · rintro before after d ⟨hd, rfl⟩
    rw [elapsedMs_add, BitVec.toNat_ofNat, Nat.mod_eq_of_lt hd]
  · rintro before after d ⟨hpos, rfl⟩ hd
    have htrue : ((BitVec.ofInt 32 d).toNat : Int) = d := bits32_toNat d hpos.le (by omega)
    rw [elapsedMs_add]
    refine ⟨htrue, fun hzero => ?_⟩
    rw [hzero] at htrue
    exact hpos.ne htrue

/-- Settles O30: the reset values, for the whole estimator at once. -/
theorem velResetClearsEstimator : Obligations.VelResetClearsEstimator := by
  refine ⟨by decide, fun s hsrc => ?_⟩
  obtain ⟨-, -, -, -, -, hexec⟩ := exec_host s hsrc
  exact hexec

end Sys2Proof.Machine
end

section
/-! The actuator mapper (42_actuator_mapper.md): the duty as a function of the magnitude, and the compare pair by the sign of the
saturated control value. -/

namespace Sys2Proof.Machine

theorem satCtrl_of_inCtrlRange {x : Int} (h : InCtrlRange x) : satCtrl x = x := by
  obtain ⟨hlo, hhi⟩ := h
  exact clamp_of_mem x _ _ hlo hhi

/-! The duty (R163). -/

theorem dutyOf_eq_min (mag arr : Int) : dutyOf mag arr = min (mag * (arr + 1) / 2 ^ 30) arr := rfl

theorem dutyOf_le (mag arr : Int) : dutyOf mag arr ≤ arr := min_le_right _ _

theorem dutyOf_nonneg {mag arr : Int} (hmag : 0 ≤ mag) (harr : 0 ≤ arr) : 0 ≤ dutyOf mag arr :=
  le_min (Int.ediv_nonneg (mul_nonneg hmag (by omega)) (by decide)) harr

theorem dutyOf_zero {arr : Int} (harr : 0 ≤ arr) : dutyOf 0 arr = 0 := by
  rw [dutyOf_eq_min, zero_mul, Int.zero_ediv, min_eq_left harr]

theorem dutyOf_mono {m n arr : Int} (harr : 0 ≤ arr) (h : m ≤ n) : dutyOf m arr ≤ dutyOf n arr := by
  have hprod : m * (arr + 1) ≤ n * (arr + 1) := mul_le_mul_of_nonneg_right h (by omega)
  exact min_le_min_right arr (Int.ediv_le_ediv (by decide) hprod)

/-- The magnitude of `CTRL_MIN` is `2^30`, so the quotient is `top` and the limit gives `ARR` (R165). -/
theorem dutyOf_lowest (arr : Int) : dutyOf (2 ^ 30) arr = arr := by
  rw [dutyOf_eq_min, Int.mul_ediv_cancel_left _ (by decide)]
  omega

/-- The magnitude of `CTRL_MAX` falls short of `2^30` by one, which costs `top / 2^30` rounded up (R165). -/
theorem dutyOf_highest {arr : Int} (harr : 0 ≤ arr) :
    dutyOf (2 ^ 30 - 1) arr = arr + 1 - (arr + 1 + 1073741823) / 1073741824 := by
  rw [dutyOf_eq_min]
  omega

/-! The compare pair (R164). -/

theorem comparePair_of_pos {u : Int} (h : 0 < satCtrl u) (arr : Int) :
    comparePair u arr = (0, dutyOf |satCtrl u| arr) := by
  simp only [comparePair, magOf_eq_abs, if_pos h]

theorem comparePair_of_neg {u : Int} (h : satCtrl u < 0) (arr : Int) :
    comparePair u arr = (dutyOf |satCtrl u| arr, 0) := by
  simp only [comparePair, magOf_eq_abs, if_pos h, if_neg h.not_gt]

theorem comparePair_of_zero {u : Int} (h : satCtrl u = 0) (arr : Int) : comparePair u arr = (0, 0) := by
  simp only [comparePair, h, lt_irrefl, if_false]

theorem comparePair_eq (u arr : Int) :
    comparePair u arr =
      (if satCtrl u < 0 then dutyOf |satCtrl u| arr else 0, if 0 < satCtrl u then dutyOf |satCtrl u| arr else 0) := by
  rcases lt_trichotomy (satCtrl u) 0 with h | h | h
  · rw [comparePair_of_neg h, if_pos h, if_neg h.not_gt]
  · rw [comparePair_of_zero h, if_neg h.not_lt, if_neg h.not_gt]
  · rw [comparePair_of_pos h, if_neg h.not_gt, if_pos h]

/-- One of the two is the duty and the other 0, also when the duty itself is 0. -/
theorem comparePair_cases (u : Int) {arr : Int} (harr : 0 ≤ arr) :
    comparePair u arr = (dutyOf |satCtrl u| arr, 0) ∨ comparePair u arr = (0, dutyOf |satCtrl u| arr) := by
  rcases lt_trichotomy (satCtrl u) 0 with h | h | h
  · exact .inl (comparePair_of_neg h arr)
  · exact .inl (by rw [comparePair_of_zero h, h, abs_zero, dutyOf_zero harr])
  · exact .inr (comparePair_of_pos h arr)

theorem comparePair_add (u : Int) {arr : Int} (harr : 0 ≤ arr) :
    (comparePair u arr).1 + (comparePair u arr).2 = dutyOf |satCtrl u| arr := by
  obtain h | h := comparePair_cases u harr <;> rw [h]
  · exact add_zero _
  · exact zero_add _

/-- A saturated value whose negation is one too drives the other channel with the same duty (R167(c)). -/
theorem comparePair_neg {u : Int} (h : satCtrl (-u) = -satCtrl u) (arr : Int) :
    comparePair (-u) arr = (comparePair u arr).swap := by
  simp only [comparePair_eq, h, abs_neg, neg_lt_zero, neg_pos, Prod.swap]

theorem comparePair_lowest {u : Int} (h : u ≤ -(2 ^ 30)) (arr : Int) : comparePair u arr = (arr, 0) := by
  have hsat : satCtrl u = -(2 ^ 30) := by rw [satCtrl_eq_max_min]; omega
  rw [comparePair_of_neg (by rw [hsat]; decide), hsat, abs_neg, abs_of_nonneg (by decide), dutyOf_lowest]

theorem comparePair_highest {u arr : Int} (h : 2 ^ 30 - 1 ≤ u) (harr : 0 ≤ arr) :
    comparePair u arr = (0, arr + 1 - (arr + 1 + 1073741823) / 1073741824) := by
  have hsat : satCtrl u = 2 ^ 30 - 1 := by rw [satCtrl_eq_max_min]; omega
  rw [comparePair_of_pos (by rw [hsat]; decide), hsat, abs_of_nonneg (by decide), dutyOf_highest harr]

/-! The command (R160). -/

theorem exec_actuate_of_comparePair {s : State} {a b : Int} (h : s.cmdSrc = .host)
    (hpair : comparePair s.x.u.toInt s.port.pwmArr.toNat = (a, b)) :
    exec .actuate s = .next
      { s with out := { s.out with ccrA := bits32 a, ccrB := bits32 b }, rsp := some ⟨.ok, 0⟩ } := by
  obtain ⟨-, -, -, hexec, -⟩ := exec_host s h
  rw [hexec, actuateOp, hpair]
  rfl

theorem toNat_bits32_dutyOf_le {mag : Int} (hmag : 0 ≤ mag) (arr : Word) :
    (bits32 (dutyOf mag arr.toNat)).toNat ≤ arr.toNat := by
  have hnonneg := dutyOf_nonneg hmag (Int.natCast_nonneg arr.toNat)
  have hle := dutyOf_le mag arr.toNat
  have htoNat := bits32_toNat _ hnonneg (by omega)
  omega

/-- The largest compare value of channel B is a pattern of its register (R165). -/
theorem toNat_bits32_highest (arr : Word) :
    (bits32 ((arr.toNat : Int) + 1 - (arr.toNat + 1 + 1073741823) / 1073741824)).toNat =
      arr.toNat + 1 - (arr.toNat + 1 + 1073741823) / 1073741824 := by
  have hlt := arr.isLt
  exact Int.natCast_inj.1 ((bits32_toNat _ (by omega) (by omega)).trans (by omega))

end Sys2Proof.Machine
end

section
/-! The obligations on the actuator mapper (42_actuator_mapper.md). -/

namespace Sys2Proof.Machine

/-- Settles O39: the compare pair by the sign of the saturated value, with its magnitude as an absolute value. -/
theorem actuateWritesComparePair : Obligations.ActuateWritesComparePair := by
  intro s hsrc us arr duty
  rw [exec_actuate_of_comparePair hsrc (comparePair_eq _ _), satCtrl_eq_max_min, dutyOf_eq_min]
  rfl

/-- Settles O40: one register takes the duty, which the limit keeps within the period, and the other 0. -/
theorem actuateDutyWithinPeriod : Obligations.ActuateDutyWithinPeriod := by
  intro s hsrc
  have hduty := toNat_bits32_dutyOf_le (abs_nonneg (satCtrl s.x.u.toInt)) s.port.pwmArr
  obtain hpair | hpair := comparePair_cases s.x.u.toInt (Int.natCast_nonneg s.port.pwmArr.toNat)
  · exact ⟨_, exec_actuate_of_comparePair hsrc hpair, hduty, Nat.zero_le _, .inr rfl⟩
  · exact ⟨_, exec_actuate_of_comparePair hsrc hpair, Nat.zero_le _, hduty, .inl rfl⟩

/-- Settles O41: below `CTRL_MIN` and above `CTRL_MAX` the saturated value is the bound; `top` is at most `2^32`, so rounding up
`top / 2^30` gives 1 up to `ARR = 2^30 - 1` and 2, 3 or 4 above. -/
theorem actuateEndsOfRange : Obligations.ActuateEndsOfRange := by
  intro s hsrc top
  have hlt := s.port.pwmArr.isLt
  constructor
  · intro hlow
    exact ⟨_, exec_actuate_of_comparePair hsrc (comparePair_lowest hlow _), ofInt_toNat 32 _, rfl⟩
  · intro hhigh
    have hvalue := toNat_bits32_highest s.port.pwmArr
    refine ⟨_, exec_actuate_of_comparePair hsrc (comparePair_highest hhigh (Int.natCast_nonneg _)), rfl, hvalue,
      fun hsmall => BitVec.eq_of_toNat_eq (hvalue.trans (by omega)), fun hlarge => ?_⟩
    simp only [hvalue, List.mem_cons, List.not_mem_nil, or_false]
    omega

/-- Settles O42: without `CTRL_MIN` the range is symmetric, so saturation commutes with negation; the sum of the pair is the duty,
monotonic in the magnitude. -/
theorem dutySymmetricAndMonotonic : Obligations.DutySymmetricAndMonotonic := by
  constructor
  · intro u arr _ hlo hhi
    have hneg : satCtrl (-u) = -satCtrl u := by
      rw [satCtrl_of_inCtrlRange ⟨by omega, by omega⟩, satCtrl_of_inCtrlRange ⟨hlo.le, hhi⟩]
    exact comparePair_neg hneg arr
  · intro u₁ u₂ arr harr h₁ h₂ habs
    rw [comparePair_add u₁ harr, comparePair_add u₂ harr, satCtrl_of_inCtrlRange h₁, satCtrl_of_inCtrlRange h₂]
    exact dutyOf_mono harr habs

end Sys2Proof.Machine
end

section
/-! The controller (43_pi_controller.md): the paths of a call, each term of a full step in exact integers, the commit rule and what
it does when only the proportional term is left. -/

namespace Sys2Proof.Machine

/-! One equation per path of a call (R181 to R183). -/

theorem piControl_firstCall {p : PiState} (h : p.firstCall = true) (cfg : Tunables) (ref meas now : Word) :
    piControl cfg ref meas now p = ({ p with firstCall := false, lastMs := now, uPrev := 0 }, 0) := by
  obtain ⟨-, he⟩ | ⟨hrun, -⟩ | ⟨hrun, -⟩ := piControl_cases cfg ref meas now p
  · exact he
  · exact absurd h (Bool.eq_false_iff.1 hrun)
  · exact absurd h (Bool.eq_false_iff.1 hrun)

theorem piControl_duplicate {p : PiState} {now : Word} (h : p.firstCall = false) (hnow : now = p.lastMs) (cfg : Tunables)
    (ref meas : Word) : piControl cfg ref meas now p = (p, p.uPrev) := by
  obtain ⟨hfirst, -⟩ | ⟨-, -, he⟩ | ⟨-, hne, -⟩ := piControl_cases cfg ref meas now p
  · exact absurd hfirst (Bool.eq_false_iff.1 h)
  · exact he
  · exact absurd hnow hne

theorem piControl_full {p : PiState} {now : Word} {i u : Int} (h : p.firstCall = false) (hnow : now ≠ p.lastMs)
    {cfg : Tunables} {ref meas : Word}
    (hfull : piFull cfg ref.toInt meas.toInt (elapsedMs now p.lastMs) p.integrator.toInt = (i, u)) :
    piControl cfg ref meas now p = (⟨bits32 i, now, false, bits32 u⟩, bits32 u) := by
  obtain ⟨hfirst, -⟩ | ⟨-, he, -⟩ | ⟨-, -, he⟩ := piControl_cases cfg ref meas now p
  · exact absurd hfirst (Bool.eq_false_iff.1 h)
  · exact absurd he hnow
  · rw [he, hfull, h]

/-- The return value is the new `u_prev` on every path (10_state.md R30). -/
theorem piControl_result (cfg : Tunables) (ref meas now : Word) (p : PiState) :
    (piControl cfg ref meas now p).2 = (piControl cfg ref meas now p).1.uPrev := by
  obtain ⟨-, he⟩ | ⟨-, -, he⟩ | ⟨-, -, he⟩ := piControl_cases cfg ref meas now p <;> rw [he]

/-- `U` and the answer take the controller's return value, and nothing outside the controller is written (R180). -/
theorem exec_piStep_of_piControl {s : State} {p : PiState} {d : Word} (h : s.cmdSrc = .host)
    (he : piControl s.cfg s.x.ref s.x.meas s.x.now s.pi = (p, d)) :
    exec .piStep s = .next { s with x := { s.x with u := d }, pi := p, rsp := some ⟨.ok, d⟩ } := by
  obtain ⟨-, -, hexec, -⟩ := exec_host s h
  rw [hexec, piStepOp, he]
  rfl

/-! The terms of a full step, in exact integers (R184 to R190). -/

theorem piErr_eq (cfg : Tunables) (ref meas : Int) :
    piErr cfg ref meas = if |ref - meas| ≤ cfg.errDeadbandRpm.toInt then 0 else ref - meas := by
  rw [piErr, absZ_eq_abs]

theorem piErrQ15_eq (cfg : Tunables) (err : Int) :
    piErrQ15 cfg err = max (-32768) (min 32767 (Int.tdiv (err * 32768) cfg.rpmScale.toInt)) :=
  clampQ15_eq_max_min _

theorem piWindow_eq (cfg : Tunables) (ref : Int) :
    piWindow cfg ref = max cfg.absIntWindowRpm.toInt (Int.tdiv (|ref| * cfg.intWindowPct.toInt) 100) := by
  rw [piWindow, absZ_eq_abs, divZ]

theorem piDi_elapsedMs (cfg : Tunables) (q : Int) (now since : Word) :
    piDi cfg q (elapsedMs now since) =
      Int.tdiv (cfg.kiQ15.toInt * q * (((now.toNat : Int) - since.toNat) % 2 ^ 32)) 1000 := by
  rw [piDi, elapsedMs_toNat, divZ]

theorem piICand_eq {cfg : Tunables} (h : 0 ≤ cfg.iClampQ30.toInt) (err q window : Int) (deltaMs : Word) (i : Int) :
    piICand cfg err q window deltaMs i =
      if |err| ≤ window then
        max (-cfg.iClampQ30.toInt) (min cfg.iClampQ30.toInt (satCtrl (i + piDi cfg q deltaMs)))
      else i := by
  rw [piICand, absZ_eq_abs, clamp_eq_max_min _ _ _ (by omega)]

/-! The commit rule (R192): two cells of the table hold, every other one commits (`piCommit_of_not_deepens`). -/

theorem piCommit_of_deepens {uCand q : Int} (h : (ctrlMax < uCand ∧ 0 < q) ∨ (uCand < ctrlMin ∧ q < 0)) (iCand i : Int) :
    piCommit uCand q iCand i = i := by
  have hsat : uCand ≠ satCtrl uCand := by
    obtain ⟨hlo, hhi⟩ := satCtrl_mem uCand
    simp only [ctrlMax, ctrlMin] at h
    omega
  have hd : deepensSaturation uCand q = true := by
    simpa only [deepensSaturation, Bool.or_eq_true, Bool.and_eq_true, decide_eq_true_eq] using h
  rw [piCommit, if_neg hsat, if_pos hd]

/-- In the range nothing deepens, so the test for the range may come first, as R192 has it. -/
theorem piCommit_eq (uCand q iCand i : Int) :
    piCommit uCand q iCand i =
      if InCtrlRange uCand then iCand
      else if (ctrlMax < uCand ∧ 0 < q) ∨ (uCand < ctrlMin ∧ q < 0) then i
      else iCand := by
  by_cases h : (ctrlMax < uCand ∧ 0 < q) ∨ (uCand < ctrlMin ∧ q < 0)
  · have hout : ¬ InCtrlRange uCand := by
      simp only [InCtrlRange, ctrlMax, ctrlMin] at h ⊢
      omega
    rw [piCommit_of_deepens h, if_neg hout, if_pos h]
  · obtain ⟨hhi, hlo⟩ := not_or.1 h
    rw [piCommit_of_not_deepens uCand q iCand i hhi hlo, if_neg h, ite_self]

theorem piCommit_self (uCand q i : Int) : piCommit uCand q i i = i := by
  obtain h | h := piCommit_cases uCand q i i <;> exact h

/-! The proportional term alone (R195(e)). -/

theorem satCtrl_satCtrl (x : Int) : satCtrl (satCtrl x) = satCtrl x := satCtrl_of_inCtrlRange (satCtrl_mem x)

theorem toInt_zero_word : (0 : Word).toInt = 0 := rfl

/-- A deadband of 0 replaces only the error 0, by itself. -/
theorem piErr_of_no_deadband {cfg : Tunables} (h : cfg.errDeadbandRpm = 0) (ref meas : Int) :
    piErr cfg ref meas = ref - meas := by
  rw [piErr_eq, h, toInt_zero_word]
  split_ifs with hle
  · exact (abs_nonpos_iff.1 hle).symm
  · rfl

theorem piFf_of_no_gain {cfg : Tunables} (h : cfg.uPerRpm = 0) (ref : Int) : piFf cfg ref = 0 := by
  rw [piFf, h, toInt_zero_word, zero_mul]
  rfl

theorem piDi_of_no_gain {cfg : Tunables} (h : cfg.kiQ15 = 0) (q : Int) (deltaMs : Word) : piDi cfg q deltaMs = 0 := by
  rw [piDi, h, toInt_zero_word, zero_mul, zero_mul]
  rfl

/-- An empty integrator stays empty inside the window, where 0 is added, and outside it. -/
theorem piICand_of_no_gain {cfg : Tunables} (hclamp : 0 ≤ cfg.iClampQ30.toInt) (h : cfg.kiQ15 = 0) (err q window : Int)
    (deltaMs : Word) : piICand cfg err q window deltaMs 0 = 0 := by
  have hzero : satCtrl 0 = 0 := rfl
  rw [piICand_eq hclamp, piDi_of_no_gain h, add_zero, hzero, min_eq_right hclamp, max_eq_right (by omega), ite_self]

theorem piFull_proportional {cfg : Tunables} (hclamp : 0 ≤ cfg.iClampQ30.toInt) (hki : cfg.kiQ15 = 0)
    (hff : cfg.uPerRpm = 0) (hdead : cfg.errDeadbandRpm = 0) (ref meas : Int) (deltaMs : Word) :
    piFull cfg ref meas deltaMs 0 = (0, piP cfg (piErrQ15 cfg (ref - meas))) := by
  simp only [piFull, piErr_of_no_deadband hdead, piFf_of_no_gain hff, piICand_of_no_gain hclamp hki, piCommit_self,
    zero_add, add_zero, piP, satCtrl_satCtrl]

end Sys2Proof.Machine
end

section
/-! The obligations on the controller (43_pi_controller.md). -/

namespace Sys2Proof.Machine

/-- Settles O33: each step's value is its closed form, the clamp of the candidate by the legality of `I_CLAMP_Q30`. -/
theorem piStepFullStep : Obligations.PiStepFullStep := by
  intro s hsrc hcfg hrun hnow ref deltaMs sat err0 err ff errQ15 p window i bound iCand uCand i' u
  have hsat : satCtrl = sat := funext satCtrl_eq_max_min
  have herr : piErr s.cfg ref s.x.meas.toInt = err := piErr_eq _ _ _
  have hff : piFf s.cfg ref = ff := congrFun hsat _
  have hq : piErrQ15 s.cfg err = errQ15 := piErrQ15_eq _ _
  have hp : piP s.cfg errQ15 = p := congrFun hsat _
  have hwindow : piWindow s.cfg ref = window := piWindow_eq _ _
  have hcand : piICand s.cfg err errQ15 window (elapsedMs s.x.now s.pi.lastMs) i = iCand := by
    rw [piICand_eq hcfg.iClampQ30_nonneg, piDi_elapsedMs, hsat]
  have hcommit : piCommit uCand errQ15 iCand i = i' := piCommit_eq _ _ _ _
  have hfull : piFull s.cfg ref s.x.meas.toInt (elapsedMs s.x.now s.pi.lastMs) i = (i', u) := by
    simp only [piFull, herr, hff, hq, hp, hwindow, hcand]
    rw [hcommit, hsat]
  exact exec_piStep_of_piControl hsrc (piControl_full hrun hnow hfull)

/-- Settles O35: the result is the new `u_prev`, which stays in the range on every path. -/
theorem piStepResultInControlRange : Obligations.PiStepResultInControlRange := by
  intro s hsrc hprev
  refine ⟨_, _, exec_piStep_of_piControl hsrc Prod.mk.eta.symm, rfl, rfl, ?_⟩
  rw [piControl_result]
  exact piControl_uPrev _ _ _ _ _ hprev

/-- Settles O37: feedforward, integrator and candidate are all 0, and the proportional term is saturated already. -/
theorem proportionalOnlyIdentity : Obligations.ProportionalOnlyIdentity := by
  intro s hsrc hcfg hrun hnow hi hki hff hdead
  have hfull : piFull s.cfg s.x.ref.toInt s.x.meas.toInt (elapsedMs s.x.now s.pi.lastMs) s.pi.integrator.toInt =
      (0, piP s.cfg (piErrQ15 s.cfg (s.x.ref.toInt - s.x.meas.toInt))) := by
    rw [hi, toInt_zero_word]
    exact piFull_proportional hcfg.iClampQ30_nonneg hki hff hdead _ _ _
  refine ⟨_, exec_piStep_of_piControl hsrc (piControl_full hrun hnow hfull), rfl, ?_⟩
  rw [piP, satCtrl_eq_max_min, piErrQ15_eq]
  rfl

/-- Settles O31: the first path of a call. -/
theorem piStepFirstCallReturnsZero : Obligations.PiStepFirstCallReturnsZero := fun _ hsrc hfirst =>
  exec_piStep_of_piControl hsrc (piControl_firstCall hfirst _ _ _ _)

/-- Settles O32: the second path of a call, which writes the controller back as it was. -/
theorem piStepDuplicateTickReturnsPrevious : Obligations.PiStepDuplicateTickReturnsPrevious := fun _ hsrc hrun hnow =>
  exec_piStep_of_piControl hsrc (piControl_duplicate hrun hnow _ _ _)

/-- Settles O34: the first and the last cell deepen the saturation and hold; the three between do not and commit. -/
theorem antiWindupCommitTable : Obligations.AntiWindupCommitTable := by
  intro uCand q iCand i
  have hhold := fun h => piCommit_of_deepens (uCand := uCand) (q := q) h iCand i
  have htake := piCommit_of_not_deepens uCand q iCand i
  simp only [ctrlMax, ctrlMin] at hhold htake
  refine ⟨fun hu hq => hhold (.inl ⟨hu, hq⟩), fun hu hq => htake ?_ ?_, fun hlo hhi => htake ?_ ?_,
    fun hu hq => htake ?_ ?_, fun hu hq => hhold (.inr ⟨hu, hq⟩)⟩ <;> omega

/-- Settles O38: the reset values, for the whole controller at once. -/
theorem piResetClearsController : Obligations.PiResetClearsController := by
  refine ⟨by decide, fun s hsrc => ?_⟩
  obtain ⟨-, -, -, -, hexec, -⟩ := exec_host s hsrc
  exact hexec

end Sys2Proof.Machine
end

section
/-! What the debug requester is refused (45_register_access.md R238), and the obligation on the tick sample
(44_loop_driver.md R210). -/

namespace Sys2Proof.Machine

/-- Each command of format `N` is the host's only; `exec_host` says what it does there. -/
theorem exec_debug_of_mem_nCommands {s : State} {i : Instr} (h : s.cmdSrc = .debug) (hi : i ∈ nCommands) :
    exec i s = .next (cmdError s .access) := by
  cases i
  case rd addr => simp [nCommands] at hi
  case wr addr data => simp [nCommands] at hi
  all_goals exact congrArg Host.Outcome.next (hostOnly_debug s _ h)

/-- Settles O20: the refusal is that of every command of format `N`; for the host the operation runs. -/
theorem getMsSamplesTick : Obligations.GetMsSamplesTick := by
  refine ⟨by decide, fun s hdebug => exec_debug_of_mem_nCommands hdebug (by simp [nCommands]), fun s hhost => ?_⟩
  obtain ⟨hexec, -⟩ := exec_host s hhost
  exact hexec

end Sys2Proof.Machine
end

section
/-! The register map by address (20_memory.md R61), the requester's reach (45_register_access.md R238), and the refused patterns of
45_register_access.md R236 beside the legal ranges of the model. -/

namespace Sys2Proof.Machine

/-- The addresses of the configuration group (20_memory.md R61). -/
abbrev ConfigAddr (a : Addr) : Prop := 0x10 ≤ a.toNat ∧ a.toNat ≤ 0x1A

/-- The addresses of the three groups (20_memory.md R61); `Reg.ofAddr_eq_none_iff` ties them to the map. -/
abbrev MappedAddr (a : Addr) : Prop := a.toNat ≤ 0x03 ∨ ConfigAddr a ∨ (0x20 ≤ a.toNat ∧ a.toNat ≤ 0x24)

theorem Reg.mappedAddr_addr (r : Reg) : MappedAddr r.addr := by cases r <;> decide

theorem Reg.ofAddr_eq_none_iff (a : Addr) : Reg.ofAddr a = none ↔ ¬ MappedAddr a := by
  constructor
  · intro hnone hmapped
    unfold Reg.ofAddr at hnone
    split at hnone <;> cases hnone
    simp only [MappedAddr, ConfigAddr, imp_false] at *
    omega
  · intro h
    cases ha : Reg.ofAddr a with
    | none => rfl
    | some r =>
      obtain rfl := (Reg.ofAddr_eq_some a r).1 ha
      exact absurd r.mappedAddr_addr h

theorem exists_addr_of_mapped {a : Addr} (h : MappedAddr a) : ∃ r : Reg, a = r.addr := by
  cases ha : Reg.ofAddr a with
  | none => exact absurd h ((Reg.ofAddr_eq_none_iff a).1 ha)
  | some r => exact ⟨r, (Reg.ofAddr_eq_some a r).1 ha⟩

theorem Reg.group_eq_configuration_iff (r : Reg) : r.group = .configuration ↔ ConfigAddr r.addr := by
  cases r <;> decide

theorem mayReach_iff (src : Requester) (r : Reg) : mayReach src r = true ↔ src = .host ∨ ConfigAddr r.addr := by
  cases src with
  | host => simp [mayReach_host]
  | debug => rw [mayReach_debug, r.group_eq_configuration_iff]; simp

/-! The signed ranges of R236 as unsigned patterns. -/

theorem toInt_nonneg_iff (v : Word) : 0 ≤ v.toInt ↔ ¬ 0x80000000 ≤ v.toNat := by
  rw [BitVec.toInt_eq_toNat_cond]; split <;> omega

theorem toInt_pos_iff (v : Word) : 1 ≤ v.toInt ↔ ¬ (v.toNat = 0 ∨ 0x80000000 ≤ v.toNat) := by
  rw [BitVec.toInt_eq_toNat_cond]; split <;> omega

theorem toInt_q15_iff (v : Word) :
    (-32768 ≤ v.toInt ∧ v.toInt ≤ 32767) ↔ ¬ (0x8000 ≤ v.toNat ∧ v.toNat ≤ 0xFFFF7FFF) := by
  have := v.isLt
  rw [BitVec.toInt_eq_toNat_cond]; split <;> omega

/-- Bits 31:2 are zero exactly below 4. -/
theorem extractLsb'_two_eq_zero_iff (v : Word) : v.extractLsb' 2 30 = 0 ↔ v.toNat < 4 := by
  rw [← BitVec.toNat_inj, BitVec.extractLsb'_toNat, Nat.shiftRight_eq_div_pow]
  have := v.isLt
  change v.toNat / 4 % 2 ^ 30 = 0 ↔ _
  omega

/-! What `legal` is, by the rows of R236. -/

theorem Reg.legal_gain {r : Reg} (hr : r ∈ [Reg.kpQ15, .kiQ15]) (v : Word) :
    r.legal v = true ↔ -32768 ≤ v.toInt ∧ v.toInt ≤ 32767 := by
  fin_cases hr <;> simp [Reg.legal]

theorem Reg.legal_rpmScale (v : Word) : Reg.rpmScale.legal v = true ↔ 1 ≤ v.toInt := by
  simp [Reg.legal]

theorem Reg.legal_nonneg {r : Reg}
    (hr : r ∈ [Reg.errDeadbandRpm, .intWindowPct, .absIntWindowRpm, .iClampQ30, .encoderPpr]) (v : Word) :
    r.legal v = true ↔ 0 ≤ v.toInt := by
  fin_cases hr <;> simp [Reg.legal]

theorem Reg.legal_enable {r : Reg} (hr : r ∈ [Reg.enSet, .enClr]) (v : Word) : r.legal v = true ↔ v.toNat < 4 := by
  rw [← extractLsb'_two_eq_zero_iff]
  fin_cases hr <;> simp [Reg.legal]

/-- The last column of the table of 45_register_access.md R236; `Reg.legal_iff_not_refused` ties it to `legal`. -/
abbrev RefusedPattern (a : Addr) (v : Word) : Prop :=
  (a ∈ [0x10, 0x11] ∧ 0x8000 ≤ v.toNat ∧ v.toNat ≤ 0xFFFF7FFF) ∨
  (a = 0x13 ∧ (v.toNat = 0 ∨ 0x80000000 ≤ v.toNat)) ∨
  (a ∈ [0x14, 0x15, 0x16, 0x17, 0x1A] ∧ 0x80000000 ≤ v.toNat) ∨
  (a ∈ [0x23, 0x24] ∧ 4 ≤ v.toNat)

theorem Reg.legal_iff_not_refused (r : Reg) (v : Word) : r.legal v = true ↔ ¬ RefusedPattern r.addr v := by
  cases r
  case kpQ15 | kiQ15 => rw [Reg.legal_gain (by simp), toInt_q15_iff]; simp [RefusedPattern, Reg.addr]
  case rpmScale => rw [Reg.legal_rpmScale, toInt_pos_iff]; simp [RefusedPattern, Reg.addr]
  case errDeadbandRpm | intWindowPct | absIntWindowRpm | iClampQ30 | encoderPpr =>
    rw [Reg.legal_nonneg (by simp), toInt_nonneg_iff]; simp [RefusedPattern, Reg.addr]
  case enSet | enClr => rw [Reg.legal_enable (by simp)]; simp [RefusedPattern, Reg.addr]
  all_goals simp [RefusedPattern, Reg.addr, Reg.legal]

end Sys2Proof.Machine
end

section
/-! The answers of `RD` and `WR`, one lemma per outcome (45_register_access.md R231, R234, R236). -/

namespace Sys2Proof.Machine

theorem exec_rd_of_unmapped {a : Addr} (h : ¬ MappedAddr a) (s : State) : exec (.rd a) s = .next (cmdError s .addr) := by
  simp [exec, execRd, (Reg.ofAddr_eq_none_iff a).2 h]

theorem exec_rd_of_not_mayReach {r : Reg} {s : State} (h : mayReach s.cmdSrc r = false) :
    exec (.rd r.addr) s = .next (cmdError s .access) := by
  simp [exec, execRd, r.ofAddr_addr, h]

/-- A write-only register is refused whoever asks. -/
theorem exec_rd_of_readReg_none {r : Reg} {s : State} (h : readReg r s = none) :
    exec (.rd r.addr) s = .next (cmdError s .access) := by
  simp [exec, execRd, r.ofAddr_addr, h]

/-- `RD` of a register of a list whose members the requester may reach, the list given as a table of addresses and patterns. -/
theorem exec_rd_of_mem {regs : List Reg} {s : State} {a : Addr} {v : Word} (hreach : ∀ r ∈ regs, mayReach s.cmdSrc r = true)
    (h : (a, some v) ∈ regs.map fun r => (r.addr, readReg r s)) : exec (.rd a) s = .next (respond s .ok v) := by
  obtain ⟨r, hr, heq⟩ := List.mem_map.1 h
  obtain ⟨rfl, hread⟩ := Prod.mk.inj heq
  exact execRd_addr_of_readReg (hreach r hr) hread

theorem exec_wr_of_legal {r : Reg} {v : Word} {s t : State} (hreach : s.cmdSrc = .host ∨ ConfigAddr r.addr)
    (hw : writeReg r v s = some t) (hl : r.legal v = true) : exec (.wr r.addr v) s = .next (respond t .ok 0) :=
  execWr_addr_of_writeReg ((mayReach_iff s.cmdSrc r).2 hreach) hw hl

theorem exec_wr_of_illegal {r : Reg} {v : Word} {s t : State} (hreach : s.cmdSrc = .host ∨ ConfigAddr r.addr)
    (hw : writeReg r v s = some t) (hl : r.legal v = false) : exec (.wr r.addr v) s = .next (cmdError s .value) := by
  simp [exec, execWr, r.ofAddr_addr, (mayReach_iff s.cmdSrc r).2 hreach, hw, hl]

/-- The eleven registers of the configuration group, by address. -/
def configurationRegs : List Reg :=
  [.kpQ15, .kiQ15, .uPerRpm, .rpmScale, .errDeadbandRpm, .intWindowPct, .absIntWindowRpm, .iClampQ30, .velWindowMs,
    .velIirShift, .encoderPpr]

theorem mem_configurationRegs_iff (r : Reg) : r ∈ configurationRegs ↔ ConfigAddr r.addr := by
  cases r <;> decide

/-- The seventeen registers that can be written, by address. -/
def writableRegs : List Reg := [.now, .ref, .meas, .u] ++ configurationRegs ++ [.enSet, .enClr]

theorem exists_writeReg_of_mem {r : Reg} (h : r ∈ writableRegs) (v : Word) (s : State) : ∃ t, writeReg r v s = some t := by
  refine Option.ne_none_iff_exists'.1 fun hnone => ?_
  obtain rfl | rfl | rfl := (writeReg_isNone r v s).1 hnone <;> exact absurd h (by decide)

end Sys2Proof.Machine
end

section
/-! The obligations on register access (45_register_access.md). -/

namespace Sys2Proof.Machine

/-- Settles O12: unmapped, out of reach or write-only, else what the register reads as; the two tables are those of the readable
registers of the configuration group and outside it. -/
theorem rdAnswersTheRegister : Obligations.RdAnswersTheRegister := by
  intro s addr mapped config
  refine ⟨fun hmapped => exec_rd_of_unmapped hmapped s, fun hmapped hdebug hconfig => ?_, fun _ hmem => ?_,
    fun v hmem => ?_, fun v hhost hmem => ?_⟩
  · obtain ⟨r, rfl⟩ := exists_addr_of_mapped hmapped
    have hreach : ¬ (s.cmdSrc = .host ∨ ConfigAddr r.addr) := not_or.2 ⟨by simp [hdebug], hconfig⟩
    exact exec_rd_of_not_mayReach (Bool.eq_false_iff.2 (mt (mayReach_iff s.cmdSrc r).1 hreach))
  · obtain ⟨r, hr, rfl⟩ := List.mem_map.1 (show addr ∈ [Reg.enSet, .enClr].map Reg.addr from hmem)
    exact exec_rd_of_readReg_none ((readReg_isNone r s).2 (by simpa using hr))
  · exact exec_rd_of_mem (regs := configurationRegs)
      (fun r hr => (mayReach_iff s.cmdSrc r).2 (.inr ((mem_configurationRegs_iff r).1 hr)))
      (List.mem_map_of_mem (f := Prod.map id some) hmem)
  · rw [BitVec.ofNat_toNat] at hmem
    exact exec_rd_of_mem (regs := [.now, .ref, .meas, .u, .ccrA, .ccrB, .en])
      (fun r _ => (mayReach_iff s.cmdSrc r).2 (.inl hhost)) (List.mem_map_of_mem (f := Prod.map id some) hmem)

/-- Settles O15: a pattern is refused exactly when it is not legal for the register it is written to. -/
theorem wrRefusesPatternsOutOfRange : Obligations.WrRefusesPatternsOutOfRange := by
  intro s addr v hmem hreach refused
  obtain ⟨r, hr, rfl⟩ := List.mem_map.1 (show addr ∈ writableRegs.map Reg.addr from hmem)
  obtain ⟨t, hw⟩ := exists_writeReg_of_mem hr v s
  have hlegal : r.legal v = true ↔ ¬ refused := r.legal_iff_not_refused v
  constructor
  · intro hrefused
    exact exec_wr_of_illegal hreach hw (Bool.eq_false_iff.2 fun hl => hlegal.1 hl hrefused)
  · intro hrefused
    exact ⟨respond t .ok 0, exec_wr_of_legal hreach hw (hlegal.2 hrefused), rfl⟩

/-- Settles O13: every pattern is legal in an operand register. -/
theorem wrStoresOperandRegister : Obligations.WrStoresOperandRegister := by
  intro s v hhost
  exact ⟨exec_wr_of_legal (r := .now) (.inl hhost) rfl rfl, exec_wr_of_legal (r := .ref) (.inl hhost) rfl rfl,
    exec_wr_of_legal (r := .meas) (.inl hhost) rfl rfl, exec_wr_of_legal (r := .u) (.inl hhost) rfl rfl⟩

/-- Settles O14: either requester reaches the group, and the premise of each register is the row of R236 it belongs to. -/
theorem wrStoresLegalConfiguration : Obligations.WrStoresLegalConfiguration := by
  intro s v
  have hstore (r : Reg) (t : State) (hr : r ∈ configurationRegs) (hw : writeReg r v s = some t) (hl : r.legal v = true) :
      exec (.wr r.addr v) s = .next (respond t .ok 0) :=
    exec_wr_of_legal (.inr ((mem_configurationRegs_iff r).1 hr)) hw hl
  exact ⟨
    fun h => hstore .kpQ15 _ (by decide) rfl ((Reg.legal_gain (by simp) v).2 h),
    fun h => hstore .kiQ15 _ (by decide) rfl ((Reg.legal_gain (by simp) v).2 h),
    hstore .uPerRpm _ (by decide) rfl rfl,
    fun h => hstore .rpmScale _ (by decide) rfl ((Reg.legal_rpmScale v).2 h),
    fun h => hstore .errDeadbandRpm _ (by decide) rfl ((Reg.legal_nonneg (by simp) v).2 h),
    fun h => hstore .intWindowPct _ (by decide) rfl ((Reg.legal_nonneg (by simp) v).2 h),
    fun h => hstore .absIntWindowRpm _ (by decide) rfl ((Reg.legal_nonneg (by simp) v).2 h),
    fun h => hstore .iClampQ30 _ (by decide) rfl ((Reg.legal_nonneg (by simp) v).2 h),
    hstore .velWindowMs _ (by decide) rfl rfl,
    hstore .velIirShift _ (by decide) rfl rfl,
    fun h => hstore .encoderPpr _ (by decide) rfl ((Reg.legal_nonneg (by simp) v).2 h)⟩

/-- Settles O16: the union with the value's two low bits, and the difference. -/
theorem wrSetsAndClearsEnableLines : Obligations.WrSetsAndClearsEnableLines := by
  intro s v hhost hv
  constructor
  · refine ⟨s.out.en ||| v.setWidth 2,
      exec_wr_of_legal (r := .enSet) (.inl hhost) rfl ((Reg.legal_enable (by simp) v).2 hv), fun k hk => ?_⟩
    simp [hk]
  · refine ⟨s.out.en &&& ~~~(v.setWidth 2),
      exec_wr_of_legal (r := .enClr) (.inl hhost) rfl ((Reg.legal_enable (by simp) v).2 hv), fun k hk => ?_⟩
    simp [hk]

/-- Settles O19: the six are the commands of format `N`. -/
theorem debugRequesterRefusedOperations : Obligations.DebugRequesterRefusedOperations := fun _ _ hdebug hi =>
  exec_debug_of_mem_nCommands hdebug hi

end Sys2Proof.Machine
end

section
/-! Command errors and the two requesters (60_exceptions.md): the steps that take no command, what a command of the debug requester
leaves alone, and the status of every word as a function of its fields, in the fixed order of R254. -/

namespace Sys2Proof

/-- The legality test of 30_encoding.md R85; `legalFields_iff` ties it to the commands. -/
abbrev LegalFields (f : Fields) : Prop :=
  f.rsv = 0 ∧ ((f.op = 0x01 ∧ f.data = 0) ∨ f.op = 0x02 ∨
    (f.op ∈ [0x10, 0x11, 0x12, 0x13, 0x20, 0x21] ∧ f.addr = 0 ∧ f.data = 0))

theorem legalFields_iff (f : Fields) : LegalFields f ↔ ∃ i : Instr, f = i.fields := by
  rw [exists_fields_eq_iff, show nCommands.map Instr.op = [0x10, 0x11, 0x12, 0x13, 0x20, 0x21] from rfl]
  constructor
  · rintro ⟨hrsv, ⟨hop, hdata⟩ | hop | ⟨hop, haddr, hdata⟩⟩
    · exact ⟨.inl hop, hrsv, fun hn => absurd (hop ▸ hn) (by decide), fun _ => hdata⟩
    · exact ⟨.inr (.inl hop), hrsv, fun hn => absurd (hop ▸ hn) (by decide), fun hr => absurd (hop ▸ hr) (by decide)⟩
    · exact ⟨.inr (.inr hop), hrsv, fun _ => ⟨haddr, hdata⟩, fun _ => hdata⟩
  · rintro ⟨hop | hop | hop, hrsv, hn, hr⟩
    · exact ⟨hrsv, .inl ⟨hop, hr hop⟩⟩
    · exact ⟨hrsv, .inr (.inl hop)⟩
    · exact ⟨hrsv, .inr (.inr ⟨hop, hn hop⟩)⟩

end Sys2Proof

namespace Sys2Proof.Machine

/-! The steps that take no command (R255, R263). -/

theorem step_of_idle {s : State} {port : InPorts} {rest : List Event} (h : s.inbox = .idle port :: rest) :
    step s = .next (idleAt s port rest) := by
  simp only [step, h]

theorem step_of_empty {s : State} (h : s.inbox = []) : step s = .next (waitIdle s) := by
  simp only [step, h]

/-! What a command answers with (R250). -/

/-- A command is a command error, or is carried out and answers `ST_OK`. -/
theorem exec_error_or_ok {s t : State} {i : Instr} (h : exec i s = .next t) :
    (∃ code, t = cmdError s code) ∨ ∃ d, t.rsp = some ⟨.ok, d⟩ := by
  obtain ⟨code, -, rfl⟩ | ⟨r, v, -, -, -, rfl⟩ | ⟨r, v, t', -, -, -, -, rfl⟩ | ⟨-, hop⟩ := exec_cases i s t h
  · exact .inl ⟨code, rfl⟩
  · exact .inr ⟨v, rfl⟩
  · exact .inr ⟨0, rfl⟩
  · obtain ⟨-, rfl⟩ | ⟨-, rfl⟩ | ⟨-, rfl⟩ | ⟨-, rfl⟩ | ⟨-, rfl⟩ | ⟨-, rfl⟩ := hop <;> exact .inr ⟨_, rfl⟩

/-! The debug requester (R258). -/

/-- The debug requester's only way to store is a `WR` to the configuration group. -/
theorem exec_debug_keeps {s t : State} {i : Instr} (hdebug : s.cmdSrc = .debug) (h : exec i s = .next t) :
    t.x = s.x ∧ t.pi = s.pi ∧ t.vel = s.vel ∧ t.out = s.out ∧
      (t.cfg = s.cfg ∨ ∃ r v, i = .wr (Reg.addr r) v ∧ ConfigAddr r.addr) := by
  obtain ⟨code, -, rfl⟩ | ⟨r, v, -, -, -, rfl⟩ | ⟨r, v, t', hi, hm, hw, -, rfl⟩ | ⟨hhost, -⟩ := exec_cases i s t h
  · exact ⟨rfl, rfl, rfl, rfl, .inl rfl⟩
  · exact ⟨rfl, rfl, rfl, rfl, .inl rfl⟩
  · have hgroup : r.group = .configuration := (mayReach_debug r).1 (hdebug ▸ hm)
    obtain ⟨hpi, hvel, -⟩ := writeReg_frame r v s t' hw
    obtain ⟨hx, -, hout⟩ := writeReg_group r v s t' hw
    exact ⟨hx (by simp [hgroup]), hpi, hvel, hout (by simp [hgroup]),
      .inr ⟨r, v, hi, r.group_eq_configuration_iff.1 hgroup⟩⟩
  · exact absurd (hhost.symm.trans hdebug) (by decide)

/-! The refusals of `WR` that come before its value is judged, and the test on requester and direction by address
(45_register_access.md R231, R234). -/

theorem exec_wr_of_unmapped {a : Addr} (h : ¬ MappedAddr a) (v : Word) (s : State) :
    exec (.wr a v) s = .next (cmdError s .addr) := by
  simp [exec, execWr, (Reg.ofAddr_eq_none_iff a).2 h]

theorem exec_wr_of_not_mayReach {r : Reg} {s : State} (h : mayReach s.cmdSrc r = false) (v : Word) :
    exec (.wr r.addr v) s = .next (cmdError s .access) := by
  simp [exec, execWr, r.ofAddr_addr, h]

/-- A read-only register is refused whoever asks. -/
theorem exec_wr_of_writeReg_none {r : Reg} {v : Word} {s : State} (h : writeReg r v s = none) :
    exec (.wr r.addr v) s = .next (cmdError s .access) := by
  simp [exec, execWr, r.ofAddr_addr, h]

/-- The test on requester and direction of R254, for the opcode of `RD` or `WR`; `accessDenied_rd_iff` and `accessDenied_wr_iff` tie
it to the model's checks. -/
abbrev AccessDenied (src : Requester) (op : BitVec 8) (a : Addr) : Prop :=
  (src = .debug ∧ ¬ ConfigAddr a) ∨ (op = 0x02 ∧ a ∈ [0x20, 0x21, 0x22]) ∨ (op = 0x01 ∧ a ∈ [0x23, 0x24])

theorem mayReach_eq_false_iff (src : Requester) (r : Reg) :
    mayReach src r = false ↔ src = .debug ∧ ¬ ConfigAddr r.addr := by
  rw [← Bool.not_eq_true, mayReach_iff]
  cases src <;> simp

theorem Reg.addr_mem_readOnly_iff (r : Reg) : r.addr ∈ [0x20, 0x21, 0x22] ↔ r = .ccrA ∨ r = .ccrB ∨ r = .en := by
  cases r <;> decide

theorem Reg.addr_mem_writeOnly_iff (r : Reg) : r.addr ∈ [0x23, 0x24] ↔ r = .enSet ∨ r = .enClr := by
  cases r <;> decide

theorem accessDenied_rd_iff (r : Reg) (s : State) :
    AccessDenied s.cmdSrc 0x01 r.addr ↔ mayReach s.cmdSrc r = false ∨ readReg r s = none := by
  rw [mayReach_eq_false_iff, readReg_isNone, ← r.addr_mem_writeOnly_iff]
  simp [AccessDenied]

theorem accessDenied_wr_iff (r : Reg) (v : Word) (s : State) :
    AccessDenied s.cmdSrc 0x02 r.addr ↔ mayReach s.cmdSrc r = false ∨ writeReg r v s = none := by
  rw [mayReach_eq_false_iff, writeReg_isNone, ← r.addr_mem_readOnly_iff]
  simp [AccessDenied]

/-! The status of a word (R254). -/

/-- The outcome is a next state whose response has the status. -/
def Answers (o : Host.Outcome State Fault Refusal) (st : Status) : Prop :=
  ∃ (t : State) (d : Word), o = .next t ∧ t.rsp = some ⟨st, d⟩

theorem answers_respond (s : State) (st : Status) (d : Word) : Answers (.next (respond s st d)) st := ⟨_, d, rfl, rfl⟩

theorem answers_cmdError (s : State) (code : Status) : Answers (.next (cmdError s code)) code := ⟨_, 0, rfl, rfl⟩

/-- R254 for a register access: address, then requester and direction, then value. -/
def accessStatus (src : Requester) (op : BitVec 8) (a : Addr) (v : Word) : Status :=
  if ¬ MappedAddr a then .addr
  else if AccessDenied src op a then .access
  else if op = 0x02 ∧ RefusedPattern a v then .value
  else .ok

/-- R254: legality of the word, then the requester of an operation or the checks of a register access. -/
def orderedStatus (src : Requester) (f : Fields) : Status :=
  if ¬ LegalFields f then .op
  else if f.op = 0x01 ∨ f.op = 0x02 then accessStatus src f.op f.addr f.data
  else if src = .debug then .access
  else .ok

theorem exec_rd_answers (a : Addr) (s : State) : Answers (exec (.rd a) s) (accessStatus s.cmdSrc 0x01 a 0) := by
  by_cases hmapped : MappedAddr a
  · obtain ⟨r, rfl⟩ := exists_addr_of_mapped hmapped
    by_cases hdenied : AccessDenied s.cmdSrc 0x01 r.addr
    · rw [accessStatus, if_neg (not_not.2 hmapped), if_pos hdenied]
      obtain hreach | hnone := (accessDenied_rd_iff r s).1 hdenied
      · rw [exec_rd_of_not_mayReach hreach]; exact answers_cmdError s .access
      · rw [exec_rd_of_readReg_none hnone]; exact answers_cmdError s .access
    · rw [accessStatus, if_neg (not_not.2 hmapped), if_neg hdenied, if_neg (by simp)]
      obtain ⟨hreach, hsome⟩ := not_or.1 (mt (accessDenied_rd_iff r s).2 hdenied)
      obtain ⟨v, hread⟩ := Option.ne_none_iff_exists'.1 hsome
      have hexec : exec (.rd r.addr) s = .next (respond s .ok v) :=
        execRd_addr_of_readReg (Bool.not_eq_false _ ▸ hreach) hread
      rw [hexec]; exact answers_respond s .ok v
  · rw [accessStatus, if_pos hmapped, exec_rd_of_unmapped hmapped]
    exact answers_cmdError s .addr

theorem exec_wr_answers (a : Addr) (v : Word) (s : State) :
    Answers (exec (.wr a v) s) (accessStatus s.cmdSrc 0x02 a v) := by
  by_cases hmapped : MappedAddr a
  · obtain ⟨r, rfl⟩ := exists_addr_of_mapped hmapped
    by_cases hdenied : AccessDenied s.cmdSrc 0x02 r.addr
    · rw [accessStatus, if_neg (not_not.2 hmapped), if_pos hdenied]
      obtain hreach | hnone := (accessDenied_wr_iff r v s).1 hdenied
      · rw [exec_wr_of_not_mayReach hreach]; exact answers_cmdError s .access
      · rw [exec_wr_of_writeReg_none hnone]; exact answers_cmdError s .access
    · rw [accessStatus, if_neg (not_not.2 hmapped), if_neg hdenied]
      obtain ⟨hreach, hsome⟩ := not_or.1 (mt (accessDenied_wr_iff r v s).2 hdenied)
      obtain ⟨t, hw⟩ := Option.ne_none_iff_exists'.1 hsome
      have hallowed : s.cmdSrc = .host ∨ ConfigAddr r.addr := (mayReach_iff s.cmdSrc r).1 (Bool.not_eq_false _ ▸ hreach)
      by_cases hrefused : RefusedPattern r.addr v
      · have hillegal : r.legal v = false := Bool.eq_false_iff.2 fun hl => (r.legal_iff_not_refused v).1 hl hrefused
        rw [if_pos ⟨rfl, hrefused⟩, exec_wr_of_illegal hallowed hw hillegal]
        exact answers_cmdError s .value
      · rw [if_neg fun h => hrefused h.2, exec_wr_of_legal hallowed hw ((r.legal_iff_not_refused v).2 hrefused)]
        exact answers_respond t .ok 0
  · rw [accessStatus, if_pos hmapped, exec_wr_of_unmapped hmapped]
    exact answers_cmdError s .addr

/-- A command of format `N` is an operation of the host's that answers `ST_OK`. -/
theorem exec_eq_hostOnly_of_mem_nCommands {i : Instr} (hi : i ∈ nCommands) (s : State) :
    ∃ (op : State → State) (d : Word), exec i s = .next (hostOnly s op) ∧ (op s).rsp = some ⟨.ok, d⟩ := by
  cases i
  case rd addr => simp [nCommands] at hi
  case wr addr data => simp [nCommands] at hi
  all_goals exact ⟨_, _, rfl, rfl⟩

theorem exec_operation_answers {i : Instr} (hi : i ∈ nCommands) (s : State) :
    Answers (exec i s) (if s.cmdSrc = .debug then .access else .ok) := by
  obtain ⟨op, d, hexec, hrsp⟩ := exec_eq_hostOnly_of_mem_nCommands hi s
  cases hsrc : s.cmdSrc with
  | debug => rw [hexec, hostOnly_debug s op hsrc]; exact answers_cmdError s .access
  | host => rw [hexec, hostOnly_host s op hsrc]; exact ⟨op s, d, rfl, hrsp⟩

/-- A command's fields are legal, so its status is decided by the later tests. -/
theorem orderedStatus_fields (src : Requester) (i : Instr) :
    orderedStatus src i.fields =
      if i.op = 0x01 ∨ i.op = 0x02 then accessStatus src i.op i.fields.addr i.fields.data
      else if src = .debug then .access else .ok := by
  have hop : i.fields.op = i.op := by cases i <;> rfl
  rw [orderedStatus, if_neg (not_not.2 ((legalFields_iff i.fields).2 ⟨i, rfl⟩)), hop]

theorem exec_answers_orderedStatus (i : Instr) (s : State) : Answers (exec i s) (orderedStatus s.cmdSrc i.fields) := by
  rw [orderedStatus_fields]
  cases i
  case rd addr => exact exec_rd_answers addr s
  case wr addr data => exact exec_wr_answers addr data s
  all_goals exact exec_operation_answers (by simp [nCommands]) s

/-- Every word, legal or not, is answered with the status of the fixed order. -/
theorem runWord_answers_orderedStatus (w : CmdWord) (s : State) :
    Answers (runWord w s) (orderedStatus s.cmdSrc (fieldsOf w)) := by
  by_cases hlegal : LegalFields (fieldsOf w)
  · obtain ⟨i, hi⟩ := (legalFields_iff (fieldsOf w)).1 hlegal
    rw [runWord_of_decode ((decode_eq_ok_iff_fields w i).2 hi), hi]
    exact exec_answers_orderedStatus i s
  · obtain ⟨e, he⟩ := (decode_error_iff w).2 (mt (legalFields_iff (fieldsOf w)).2 hlegal)
    rw [runWord_of_illegal he, orderedStatus, if_pos hlegal]
    exact answers_cmdError s .op

end Sys2Proof.Machine
end

section
/-! The obligations on command errors, port changes and the debug requester (60_exceptions.md). -/

namespace Sys2Proof.Machine

/-- Settles O10: only a command error has a status other than `ST_OK`. -/
theorem commandErrorChangesNothing : Obligations.CommandErrorChangesNothing := by
  intro i s t r h hrsp hne
  obtain ⟨code, rfl⟩ | ⟨d, hok⟩ := exec_error_or_ok h
  · obtain rfl : ⟨code, 0⟩ = r := Option.some.inj hrsp
    exact ⟨rfl, rfl⟩
  · obtain rfl : r = ⟨.ok, d⟩ := Option.some.inj (hrsp.symm.trans hok)
    exact absurd rfl hne

/-- Settles O11: the status is that of `orderedStatus`, and each clause is one of its branches. -/
theorem statusFollowsFixedOrder : Obligations.StatusFollowsFixedOrder := by
  intro s c rest hin op addr rsv data legalWord mapped config refused
  obtain ⟨t, d, ht, hrsp⟩ := runWord_answers_orderedStatus c.word (accept s c rest)
  have haccess (hl : legalWord) (hop : op = 0x01 ∨ op = 0x02) :
      orderedStatus c.src (fieldsOf c.word) = accessStatus c.src op addr data :=
    (if_neg (not_not.2 hl)).trans (if_pos hop)
  have hoperation (hl : legalWord) (hr : op ≠ 0x01) (hw : op ≠ 0x02) :
      orderedStatus c.src (fieldsOf c.word) = if c.src = .debug then .access else .ok :=
    (if_neg (not_not.2 hl)).trans (if_neg (not_or.2 ⟨hr, hw⟩))
  refine ⟨t, orderedStatus c.src (fieldsOf c.word), d, (step_of_command hin).trans ht, hrsp, fun hl => if_pos hl,
    fun hl hsrc hr hw => ?_, fun hl hsrc hr hw => ?_, fun hl hop hm => ?_, fun hl hop hm hd => ?_, fun hl hop hm hd => ?_⟩
  · rw [hoperation hl hr hw, if_pos hsrc]
  · rw [hoperation hl hr hw, if_neg (by simp [hsrc])]
  · exact (haccess hl hop).trans (if_pos hm)
  · exact (haccess hl hop).trans ((if_neg (not_not.2 hm)).trans (if_pos hd))
  · have hvalue : orderedStatus c.src (fieldsOf c.word) = if op = 0x02 ∧ refused then .value else .ok :=
      (haccess hl hop).trans ((if_neg (not_not.2 hm)).trans (if_neg hd))
    exact ⟨fun hv => hvalue.trans (if_pos hv), fun hv => hvalue.trans (if_neg hv)⟩

/-- Settles O54: an illegal word changes nothing, and the fields of a word that stores are those of a `WR` to the group. -/
theorem debugRequesterChangesOnlyConfiguration : Obligations.DebugRequesterChangesOnlyConfiguration := by
  intro s t c rest hin hdebug h
  rw [step_of_command hin] at h
  cases hd : decode c.word with
  | error e =>
    rw [runWord_of_illegal hd] at h
    cases h
    exact ⟨rfl, rfl, rfl, rfl, absurd rfl⟩
  | ok i =>
    rw [runWord_of_decode hd] at h
    obtain ⟨hx, hpi, hvel, hout, hcfg⟩ := exec_debug_keeps (s := accept s c rest) hdebug h
    refine ⟨hx, hpi, hvel, hout, fun hne => ?_⟩
    obtain hkept | ⟨r, v, rfl, hconfig⟩ := hcfg
    · exact absurd hkept hne
    · have hfields := fieldsOf_of_decode hd
      have hop : c.word.extractLsb' 56 8 = 0x02 := congrArg Fields.op hfields
      have haddr : c.word.extractLsb' 48 8 = r.addr := congrArg Fields.addr hfields
      rw [haddr]
      exact ⟨hop, hconfig⟩

/-- Settles O7: the accepted state with the response of a command error is the one the statement writes out. -/
theorem illegalWordAnswersStOp : Obligations.IllegalWordAnswersStOp := by
  intro s c rest e hin hd
  rw [step_of_command hin, runWord_of_illegal hd]
  rfl

/-- Settles O48: an idle moment leaves the state of `idleAt`, an empty inbox that of `waitIdle`. -/
theorem portChangeCausesNothing : Obligations.PortChangeCausesNothing :=
  ⟨fun _ _ _ hin => ⟨_, step_of_idle hin, rfl, rfl, rfl, rfl, rfl, rfl, rfl⟩,
    fun _ hin => ⟨_, step_of_empty hin, rfl, rfl, rfl, rfl, rfl⟩⟩

end Sys2Proof.Machine
end

section
/-! Reset and the hazards of the environment (70_reset_and_hazards.md): hardware reset as one step, each operation with the gains and
the pulse count at 0, and a timestamp that runs backward. -/

namespace Sys2Proof.Machine

/-! Hardware reset (R270). -/

theorem step_of_reset {s : State} {port : InPorts} {inProgress : Option Presented} {rest : List Event}
    (h : s.inbox = .reset port inProgress :: rest) : step s = .next (hardReset s port rest) := by
  simp only [step, h]

/-! The operations of an unconfigured core (R272). -/

/-- Without a pulse count the denominator of the speed is 0, whatever the window holds. -/
theorem rpmDen_of_no_pulses {cfg : Tunables} (h : cfg.encoderPpr = 0) (v : VelState) : rpmDen cfg v = 0 := by
  rw [rpmDen, h, toInt_zero_word, mul_zero, zero_mul]

theorem sampledFilt_of_no_pulses {cfg : Tunables} (h : cfg.encoderPpr = 0) (now : Word) (cnt : Half) (v : VelState) :
    sampledFilt cfg now cnt v = v.velFilt := by
  rw [sampledFilt_eq, if_pos (.inr (rpmDen_of_no_pulses h _))]

/-- On every path the filter is left alone and the result is 0 or the filter. -/
theorem velEstimate_of_no_pulses {cfg : Tunables} (h : cfg.encoderPpr = 0) (now : Word) (cnt : Half) {v : VelState}
    (hfilt : v.velFilt = 0) :
    (velEstimate cfg now cnt v).1.velFilt = 0 ∧ (velEstimate cfg now cnt v).2 = 0 := by
  by_cases hprev : v.prevMs = 0
  · rw [velEstimate_latch hprev]
    exact ⟨hfilt, rfl⟩
  · by_cases hnow : now = v.prevMs
    · rw [velEstimate_duplicate hprev hnow]
      exact ⟨hfilt, hfilt⟩
    · rw [velEstimate_sample hprev hnow, sampledFilt_of_no_pulses h]
      exact ⟨hfilt, hfilt⟩

theorem piP_of_no_gain {cfg : Tunables} (h : cfg.kpQ15 = 0) (q : Int) : piP cfg q = 0 := by
  rw [piP, h, toInt_zero_word, zero_mul]
  rfl

/-- With no gain of the three and no deadband, an empty controller stays empty on every path, and its result, the new
`u_prev`, is 0 (`piControl_result`). -/
theorem piControl_of_no_gains {cfg : Tunables} (hclamp : 0 ≤ cfg.iClampQ30.toInt) (hkp : cfg.kpQ15 = 0)
    (hki : cfg.kiQ15 = 0) (hff : cfg.uPerRpm = 0) (hdead : cfg.errDeadbandRpm = 0) (ref meas now : Word) {p : PiState}
    (hi : p.integrator = 0) (hu : p.uPrev = 0) :
    (piControl cfg ref meas now p).1.integrator = 0 ∧ (piControl cfg ref meas now p).1.uPrev = 0 := by
  by_cases hfirst : p.firstCall = true
  · rw [piControl_firstCall hfirst]
    exact ⟨hi, rfl⟩
  · have hrun := Bool.eq_false_iff.2 hfirst
    by_cases hnow : now = p.lastMs
    · rw [piControl_duplicate hrun hnow]
      exact ⟨hi, hu⟩
    · have hfull : piFull cfg ref.toInt meas.toInt (elapsedMs now p.lastMs) p.integrator.toInt = (0, 0) := by
        rw [hi, toInt_zero_word, piFull_proportional hclamp hki hff hdead, piP_of_no_gain hkp]
      rw [piControl_full hrun hnow hfull]
      exact ⟨rfl, rfl⟩

theorem comparePair_zero (arr : Int) : comparePair 0 arr = (0, 0) := comparePair_of_zero rfl arr

/-! A backward step (R286). -/

theorem BackwardStep.elapsedMs {before after : Word} {g : Int} (h : BackwardStep before after g) :
    ((elapsedMs after before).toNat : Int) = 2 ^ 32 - g := by
  obtain ⟨hpos, hlt, rfl⟩ := h
  have hneg : before - BitVec.ofInt 32 g - before = -BitVec.ofInt 32 g := by rw [sub_sub_cancel_left]
  have hg : ((BitVec.ofInt 32 g).toNat : Int) = g := bits32_toNat g hpos.le (by omega)
  rw [Machine.elapsedMs, hneg, BitVec.toNat_neg]
  omega

theorem capMs_of_le {d : Word} (h : 65535 ≤ d.toNat) : capMs d = 65535 := by
  rw [capMs, min_eq_right h]
  rfl

/-- A full ring loses its oldest sample first, so the pushed one is the newest either way. -/
theorem EstimatorSound.active_pushSample {v : VelState} (hv : EstimatorSound v) (sample : Slot) :
    ∃ older, (Machine.pushSample v sample).active = older ++ [sample] := by
  obtain h | h := Nat.lt_or_eq_of_le hv.1
  · exact ⟨_, Machine.active_pushSample v sample h⟩
  · have hf := dropOldest_filled_toNat v 31 h
    rw [pushSample_of_full v sample h]
    exact ⟨_, Machine.active_pushSample _ sample (by omega)⟩

/-- A newest sample longer than the window is all that the trim leaves: the loop never drops it, and while it is in the sum the loop
cannot stop for the window. -/
theorem EstimatorSound.trim_of_newest_long {v : VelState} (hv : EstimatorSound v) {older : List Slot} {newest : Slot}
    (hactive : v.active = older ++ [newest]) {window : Word} (hlong : window.toNat < newest.dms.toNat) :
    (trim window v).active = [newest] ∧ (trim window v).filled = 1 ∧
      (trim window v).sumDeltaMs.toNat = newest.dms.toNat := by
  have hfilled : 1 ≤ v.filled.toNat := by
    rw [← length_active, hactive, List.length_append]
    exact Nat.le_add_left _ _
  have hpos : 1 ≤ (trim window v).filled.toNat := trimLoop_filled_pos window _ v hfilled
  have hsuffix : (trim window v).active <:+ older ++ [newest] := hactive ▸ hv.active_suffix window _
  obtain ⟨-, -, hms, -⟩ := (estimatorSound_iff (trim window v)).1 (hv.trimLoop window _)
  obtain hempty | ⟨kept, hkept, -⟩ := List.suffix_concat_iff.1 hsuffix
  · rw [← length_active, hempty] at hpos
    exact absurd hpos (by decide)
  · rw [hkept, dmsTotal_append_singleton] at hms
    obtain hle | hone := trim_window window v hfilled
    · omega
    · have hlen : kept.length + 1 = 1 := by
        rw [← List.length_concat, List.concat_eq_append, ← hkept, length_active, hone]
        rfl
      obtain rfl : kept = [] := List.length_eq_zero_iff.1 (Nat.succ.inj hlen)
      exact ⟨hkept, hone, hms.trans (Nat.zero_add _)⟩

/-- A call whose elapsed time reaches the cap, with the window below the cap (R136, R137). -/
theorem EstimatorSound.takeSample_of_cap_le {v : VelState} (hv : EstimatorSound v) {cfg : Tunables} {now : Word} (cnt : Half)
    (hcap : 65535 ≤ (Machine.elapsedMs now v.prevMs).toNat) (hwindow : cfg.velWindowMs.toNat < 65535) :
    (Machine.takeSample cfg now cnt v).active = [{ dc := countDiff cnt v.prevCount, dms := 65535 }] ∧
      (Machine.takeSample cfg now cnt v).filled = 1 ∧ (Machine.takeSample cfg now cnt v).sumDeltaMs = 65535 := by
  have hlatched : EstimatorSound { v with prevCount := cnt, prevMs := now } := hv.congr rfl rfl rfl rfl rfl
  have hsound := hlatched.pushSample (sample := { dc := countDiff cnt v.prevCount, dms := 65535 }) (Nat.one_le_of_lt hwindow)
  obtain ⟨older, hpushed⟩ := hlatched.active_pushSample { dc := countDiff cnt v.prevCount, dms := 65535 }
  obtain ⟨hactive, hfilled, hms⟩ := hsound.trim_of_newest_long hpushed hwindow
  rw [Machine.takeSample, capMs_of_le hcap]
  exact ⟨hactive, hfilled, BitVec.eq_of_toNat_eq hms⟩

end Sys2Proof.Machine
end

section
/-! The obligations on reset and the hazards of the environment (70_reset_and_hazards.md). -/

namespace Sys2Proof.Machine

/-- Settles O56: with `ENCODER_PPR` 0 the filter is never updated, with the gains 0 every term of the control value is 0, and the
control value 0 drives neither channel. -/
theorem unconfiguredCoreCommandsNothing : Obligations.UnconfiguredCoreCommandsNothing := by
  intro s hsrc hcfg hi hu hfilt
  refine ⟨?_, ?_, fun hzero => ?_⟩
  · obtain ⟨hkept, hmeas⟩ := velEstimate_of_no_pulses (congrArg Tunables.encoderPpr hcfg) s.x.now s.port.encCnt hfilt
    exact ⟨_, exec_velStep_of_velEstimate hsrc Prod.mk.eta.symm, hmeas, hkept⟩
  · have hclamp : 0 ≤ s.cfg.iClampQ30.toInt := by rw [hcfg]; decide
    obtain ⟨hempty, hprev⟩ := piControl_of_no_gains hclamp (congrArg Tunables.kpQ15 hcfg) (congrArg Tunables.kiQ15 hcfg)
      (congrArg Tunables.uPerRpm hcfg) (congrArg Tunables.errDeadbandRpm hcfg) s.x.ref s.x.meas s.x.now hi hu
    exact ⟨_, exec_piStep_of_piControl hsrc Prod.mk.eta.symm, (piControl_result _ _ _ _ _).trans hprev, hempty, hprev⟩
  · have hpair : comparePair s.x.u.toInt s.port.pwmArr.toNat = (0, 0) := by
      rw [hzero, toInt_zero_word, comparePair_zero]
    exact ⟨_, exec_actuate_of_comparePair hsrc hpair, rfl, rfl⟩

/-- Settles O58: the wrapped difference is `2^32 - g`, at least the cap, so the call's own sample is all that the trim leaves. -/
theorem backwardStepActsAsLongTime : Obligations.BackwardStepActsAsLongTime := by
  refine ⟨fun _ _ _ hback => hback.elapsedMs, fun s g hsrc hv hprev hback hg hwindow => ?_⟩
  have helapsed := hback.elapsedMs
  have hcap : 65535 ≤ (elapsedMs s.x.now s.vel.prevMs).toNat := by omega
  have hnow : s.x.now ≠ s.vel.prevMs := fun h => by
    rw [(elapsedMs_eq_zero _ _).2 h] at hcap
    exact absurd hcap (by decide)
  obtain ⟨hactive, hfilled, hms⟩ := hv.takeSample_of_cap_le s.port.encCnt hcap hwindow
  rw [countDiff_eq_ofInt] at hactive
  exact ⟨_, exec_velStep_of_velEstimate hsrc (velEstimate_sample hprev hnow _ _), hactive, hfilled, hms⟩

/-- Settles O47: the state of `hardReset`, whatever the event abandons. -/
theorem hardwareResetRestoresEverything : Obligations.HardwareResetRestoresEverything := fun _ _ _ _ hin =>
  ⟨_, step_of_reset hin, rfl, rfl, rfl, rfl, rfl, rfl, rfl, rfl, rfl⟩

end Sys2Proof.Machine
end
